-- ==== Sys2Proof/Word.lean ====
section
/-! DEFINITION. The word types of MSTEP (00_scope.md R9, R12) and the 8-byte frame buffer. -/

namespace Sys2Proof

/-- A bus datum, `u8` (R9, R12). -/
abbrev Byte := BitVec 8

/-- A motor-configuration value, 4 bits (R9). -/
abbrev Nibble := BitVec 4

/-- A position or relative step count as a 16-bit two's-complement pattern (R9). -/
abbrev Half := BitVec 16

/-- A 7-bit slave address (R9, R40). -/
abbrev SlaveAddr := BitVec 7

/-- A host command word (30_encoding.md R59). -/
abbrev HostWord := BitVec 40

/-- An 8-byte frame buffer, TXBUF[0..7] or RXBUF[0..7] (10_state.md R20): `b0` is byte 0. -/
structure Machine.Buf where
  b0 : Byte
  b1 : Byte
  b2 : Byte
  b3 : Byte
  b4 : Byte
  b5 : Byte
  b6 : Byte
  b7 : Byte
  deriving DecidableEq, Repr

end Sys2Proof
end

