-- ==== Sys2Proof/Config.lean ====
section
/-! DEFINITION. What the spec leaves to the implementation or to nobody: the parameter DEV_ADDR_INIT and the free values. None has a body. -/

namespace Sys2Proof

/-- `DEV_ADDR_INIT` (00_scope.md R8): the one model argument, OPEN. Any 7-bit value; nothing can be proved of which. Log 2. -/
opaque Config.devAddrInit : SlaveAddr

/-- The value of an unspecified byte of TXBUF (10_state.md R33): byte `i` of the `n`-th draw. A free value, log 3. -/
opaque Config.freeByte : (n i : Nat) → Byte

end Sys2Proof
end

