-- ==== Sys2Proof/Syntax.lean ====
section
/-! DEFINITION. The instructions: one constructor per row of spec/opcode_table.json. -/

namespace Sys2Proof

/-- The 18 host commands (30_encoding.md R62), then the 9 command frames (R65).
A constructor carries exactly the operand fields of its format (R60): ignored operand bits and the literal
bytes of a frame are no part of it. -/
inductive Instr where
  /-- OP 0x01, H8 (R100) -/
  | setIrun (value : Byte)
  /-- OP 0x02, H8 (R101) -/
  | setIhold (value : Byte)
  /-- OP 0x03, H8 (R102) -/
  | setVmax (value : Byte)
  /-- OP 0x04, H8 (R103) -/
  | setVmin (value : Byte)
  /-- OP 0x05, H0 (R104) -/
  | setMotorParam
  /-- OP 0x06, HP4: run current, hold current, v_max, v_min (R105) -/
  | setMotorParam4 (a b c d : Byte)
  /-- OP 0x07, H0 (R106) -/
  | hardStop
  /-- OP 0x08, H0 (R107) -/
  | softStop
  /-- OP 0x09, H0 (R108) -/
  | resetPosition
  /-- OP 0x0A, H0 (R109) -/
  | runInit
  /-- OP 0x0B, H0 (R110) -/
  | getFullStatus1
  /-- OP 0x0C, H0 (R111) -/
  | getFullStatus2
  /-- OP 0x0D, H16 (R112) -/
  | setPosition (target : Half)
  /-- OP 0x0E, H16 (R113) -/
  | drive (relativeSteps : Half)
  /-- OP 0x0F, H0 (R114) -/
  | getMotionStatus
  /-- OP 0x10, H0 (R115) -/
  | getSwitch
  /-- OP 0x11, H0 (R116) -/
  | getActualPosition
  /-- OP 0x12, HB (R117) -/
  | burnNewAddress (addr : Byte) (conf : Bool)
  /-- frame FM, 8 bytes (R65, R76) -/
  | frameSetMotorParam (irun ihold vmax vmin : Nibble)
  /-- frame FP, 5 bytes (R65, R77) -/
  | frameSetPosition (target : Half)
  /-- frame FS, 0x85 (R65, R78) -/
  | frameHardStop
  /-- frame FS, 0x8F -/
  | frameSoftStop
  /-- frame FS, 0x86 -/
  | frameResetPosition
  /-- frame FS, 0x88 -/
  | frameRunInit
  /-- frame FS, 0x81 -/
  | frameGetFullStatus1
  /-- frame FS, 0xFC -/
  | frameGetFullStatus2
  /-- frame FB, 5 bytes: the four OTP bits (R65, R83) -/
  | frameBurnAddress (newBits : Nibble)
  deriving DecidableEq, Repr

/-- What one of MSTEP's two ports carries (R58): a host command word in, or the bytes of a command frame out. -/
inductive Packet where
  | command (w : HostWord)
  | frame (bytes : List Byte)
  deriving DecidableEq, Repr

end Sys2Proof
end

