-- ==== Sys2Proof/WellFormed.lean ====
section
/-! DEFINITION. What is a legal word on the command port and a legal frame on the bus port.

A term of `Instr` cannot be ill-formed: each operand has exactly the width of its field (30_encoding.md R60,
R65), so `Instr.wellFormed` holds of all. What can be ill-formed is what the ports carry: a host word with an
illegal OP (R63), or a byte list that is none of the nine frames (R65 to R68). These are the checks here. -/

namespace Sys2Proof

/-- The rows of format F* (the command frames, R65), as against the host commands (R62). -/
def Instr.isFrame : Instr → Bool
  | .setIrun _ => false
  | .setIhold _ => false
  | .setVmax _ => false
  | .setVmin _ => false
  | .setMotorParam => false
  | .setMotorParam4 _ _ _ _ => false
  | .hardStop => false
  | .softStop => false
  | .resetPosition => false
  | .runInit => false
  | .getFullStatus1 => false
  | .getFullStatus2 => false
  | .setPosition _ => false
  | .drive _ => false
  | .getMotionStatus => false
  | .getSwitch => false
  | .getActualPosition => false
  | .burnNewAddress _ _ => false
  | .frameSetMotorParam _ _ _ _ => true
  | .frameSetPosition _ => true
  | .frameHardStop => true
  | .frameSoftStop => true
  | .frameResetPosition => true
  | .frameRunInit => true
  | .frameGetFullStatus1 => true
  | .frameGetFullStatus2 => true
  | .frameBurnAddress _ => true

/-- Every instruction is well-formed: its operand types are its fields (R60, R65). -/
def Instr.wellFormed (_ : Instr) : Bool := true

/-- R63: OP 0x01 to 0x12 select a command; 0x00 and 0x13 to 0xFF select none. -/
def opLegal (op : Byte) : Bool := 0x01 ≤ op.toNat && op.toNat ≤ 0x12

/-- R66: the frame length is a function of the opcode byte alone; none for a byte that opens no frame (R68). -/
def frameLength (opcode : Byte) : Option Nat :=
  if opcode ∈ [(0x81 : Byte), 0x85, 0x86, 0x88, 0x8F, 0xFC] then some 1
  else if opcode ∈ [(0x8B : Byte), 0x90] then some 5
  else if opcode = 0x89 then some 8
  else none

/-- R67: the literal bytes of FM, FP and FB, and R68's zero high nibble of FB's `F[4]`. -/
def reservedBytesLiteral (bytes : List Byte) : Bool :=
  let lit (i : Nat) (v : Byte) : Bool := bytes[i]? == some v
  if bytes.length = 1 then true
  else if bytes[0]? = some 0x89 then lit 1 0xFF && lit 2 0xFF && lit 5 0x00 && lit 6 0x00 && lit 7 0x00
  else if bytes[0]? = some 0x90 then
    lit 1 0xFF && lit 2 0xFF && lit 3 0x02 && (bytes[4]?.any fun b => b.toNat < 16)
  else lit 1 0xFF && lit 2 0xFF

/-- A byte list is one of the nine frames of R65: an opcode of R66, that opcode's length, the literals of R67. -/
def frameWellFormed (bytes : List Byte) : Bool :=
  (bytes.head?.bind frameLength) == some bytes.length && reservedBytesLiteral bytes

/-- What a port may carry (R58): any word with a legal OP, any of the nine frames. -/
def Packet.wellFormed : Packet → Bool
  | .command w => opLegal (w.extractLsb' 32 8)
  | .frame bytes => frameWellFormed bytes

end Sys2Proof
end

