-- ==== Sys2Proof/Decode.lean ====
section
/-! DEFINITION. The decoder of host command words and of command frames, total on every word and byte list, and the encoder (30_encoding.md R58 to R69). -/

namespace Sys2Proof

/-! ## Host command words -/

/-- R59: `OP = w[39:32]`. -/
def opOf (w : HostWord) : Byte := w.extractLsb' 32 8

/-- R59: `OPERAND = w[31:0]`. -/
def operandOf (w : HostWord) : BitVec 32 := w.extractLsb' 0 32

/-- R60, format H8: `VALUE = OPERAND[7:0]`; also HB's ADDR and HP4's D. -/
def fieldByte0 (arg : BitVec 32) : Byte := arg.extractLsb' 0 8

/-- R60, format HP4: `C = OPERAND[15:8]`. -/
def fieldByte1 (arg : BitVec 32) : Byte := arg.extractLsb' 8 8

/-- R60, format HP4: `B = OPERAND[23:16]`. -/
def fieldByte2 (arg : BitVec 32) : Byte := arg.extractLsb' 16 8

/-- R60, format HP4: `A = OPERAND[31:24]`. -/
def fieldByte3 (arg : BitVec 32) : Byte := arg.extractLsb' 24 8

/-- R60, format H16: `S16 = OPERAND[15:0]`. -/
def fieldS16 (arg : BitVec 32) : Half := arg.extractLsb' 0 16

/-- R60, R64, format HB: `CONF` is true exactly when `OPERAND[8] = 1`. -/
def fieldConf (arg : BitVec 32) : Bool := arg.getLsbD 8

/-- The host opcode map (R62) over OP and OPERAND; `none` for an illegal OP (R63). -/
def decodeCommand (op : Byte) (arg : BitVec 32) : Option Instr :=
  match op.toNat with
  | 0x01 => some (.setIrun (fieldByte0 arg))
  | 0x02 => some (.setIhold (fieldByte0 arg))
  | 0x03 => some (.setVmax (fieldByte0 arg))
  | 0x04 => some (.setVmin (fieldByte0 arg))
  | 0x05 => some .setMotorParam
  | 0x06 => some (.setMotorParam4 (fieldByte3 arg) (fieldByte2 arg) (fieldByte1 arg) (fieldByte0 arg))
  | 0x07 => some .hardStop
  | 0x08 => some .softStop
  | 0x09 => some .resetPosition
  | 0x0A => some .runInit
  | 0x0B => some .getFullStatus1
  | 0x0C => some .getFullStatus2
  | 0x0D => some (.setPosition (fieldS16 arg))
  | 0x0E => some (.drive (fieldS16 arg))
  | 0x0F => some .getMotionStatus
  | 0x10 => some .getSwitch
  | 0x11 => some .getActualPosition
  | 0x12 => some (.burnNewAddress (fieldByte0 arg) (fieldConf arg))
  | _ => none

/-- A host command word (R59, R62). -/
def decodeWord (w : HostWord) : Option Instr := decodeCommand (opOf w) (operandOf w)

/-! ## Command frames -/

/-- R48: the first-named quantity is the high nibble. -/
def highNibble (b : Byte) : Nibble := b.extractLsb' 4 4

def lowNibble (b : Byte) : Nibble := b.extractLsb' 0 4

/-- R47: a 16-bit field with its most significant byte at the lower frame index. -/
def joinBytes (hi lo : Byte) : Half := hi ++ lo

/-- Cuts one frame of R65 off a byte list and answers the bytes after it (R66): `none` where the list does not
begin with one of the nine frames, its reserved bytes literal (R67, R68). -/
def decodeFramePrefix : List Byte → Option (Instr × List Byte)
  | [] => none
  | opcode :: rest =>
    match opcode.toNat with
    | 0x85 => some (.frameHardStop, rest)
    | 0x8F => some (.frameSoftStop, rest)
    | 0x86 => some (.frameResetPosition, rest)
    | 0x88 => some (.frameRunInit, rest)
    | 0x81 => some (.frameGetFullStatus1, rest)
    | 0xFC => some (.frameGetFullStatus2, rest)
    | 0x89 =>
      match rest with
      | f1 :: f2 :: f3 :: f4 :: f5 :: f6 :: f7 :: more =>
        if f1 = 0xFF ∧ f2 = 0xFF ∧ f5 = 0x00 ∧ f6 = 0x00 ∧ f7 = 0x00 then
          some (.frameSetMotorParam (highNibble f3) (lowNibble f3) (highNibble f4) (lowNibble f4), more)
        else none
      | _ => none
    | 0x8B =>
      match rest with
      | f1 :: f2 :: f3 :: f4 :: more =>
        if f1 = 0xFF ∧ f2 = 0xFF then some (.frameSetPosition (joinBytes f3 f4), more) else none
      | _ => none
    | 0x90 =>
      match rest with
      | f1 :: f2 :: f3 :: f4 :: more =>
        if f1 = 0xFF ∧ f2 = 0xFF ∧ f3 = 0x02 ∧ highNibble f4 = 0 then
          some (.frameBurnAddress (lowNibble f4), more)
        else none
      | _ => none
    | _ => none

/-- A byte list that is exactly one frame. -/
def decodeFrame (bytes : List Byte) : Option Instr :=
  match decodeFramePrefix bytes with
  | some (i, []) => some i
  | some (_, _ :: _) => none
  | none => none

/-- Cuts a captured bus trace into its frames (R66), at most `fuel` of them; `none` where it is no sequence of frames. -/
def cutTrace : (fuel : Nat) → List Byte → Option (List Instr)
  | _, [] => some []
  | 0, _ :: _ => none
  | fuel + 1, b :: bs =>
    match decodeFramePrefix (b :: bs) with
    | some (i, rest) => (cutTrace fuel rest).map (i :: ·)
    | none => none

/-- What a port carries (R58). -/
def decode : Packet → Option Instr
  | .command w => decodeWord w
  | .frame bytes => decodeFrame bytes

/-! ## The encoder -/

/-- R59: the word with this OP and OPERAND. -/
def wordOf (op : Byte) (arg : BitVec 32) : HostWord := op ++ arg

/-- R73: the word of a host command, ignored operand bits 0; `none` for a frame, which no host word stands for. -/
def encodeWord : Instr → Option HostWord
  | .setIrun v => some (wordOf 0x01#8 (0#24 ++ v))
  | .setIhold v => some (wordOf 0x02#8 (0#24 ++ v))
  | .setVmax v => some (wordOf 0x03#8 (0#24 ++ v))
  | .setVmin v => some (wordOf 0x04#8 (0#24 ++ v))
  | .setMotorParam => some (wordOf 0x05#8 (0#32))
  | .setMotorParam4 a b c d => some (wordOf 0x06#8 (a ++ b ++ c ++ d))
  | .hardStop => some (wordOf 0x07#8 (0#32))
  | .softStop => some (wordOf 0x08#8 (0#32))
  | .resetPosition => some (wordOf 0x09#8 (0#32))
  | .runInit => some (wordOf 0x0A#8 (0#32))
  | .getFullStatus1 => some (wordOf 0x0B#8 (0#32))
  | .getFullStatus2 => some (wordOf 0x0C#8 (0#32))
  | .setPosition t => some (wordOf 0x0D#8 (0#16 ++ t))
  | .drive r => some (wordOf 0x0E#8 (0#16 ++ r))
  | .getMotionStatus => some (wordOf 0x0F#8 (0#32))
  | .getSwitch => some (wordOf 0x10#8 (0#32))
  | .getActualPosition => some (wordOf 0x11#8 (0#32))
  | .burnNewAddress a conf => some (wordOf 0x12#8 (0#23 ++ BitVec.ofBool conf ++ a))
  | .frameSetMotorParam _ _ _ _ => none
  | .frameSetPosition _ => none
  | .frameHardStop => none
  | .frameSoftStop => none
  | .frameResetPosition => none
  | .frameRunInit => none
  | .frameGetFullStatus1 => none
  | .frameGetFullStatus2 => none
  | .frameBurnAddress _ => none

/-- 00_scope.md R11: the bytes of a frame word, `F[0]` the most significant: `F[i] = W[8(n-i)-1 : 8(n-i)-8]`. -/
def bytesOfFrameWord (n : Nat) (w : BitVec (8 * n)) : List Byte :=
  (List.range n).map fun i => w.extractLsb' (8 * (n - i) - 8) 8

/-- 00_scope.md R11: `W(F) = F[0]·2^(8(n-1)) + ... + F[n-1]`. -/
def frameWordOf (bytes : List Byte) : Nat := bytes.foldl (fun acc b => acc * 256 + b.toNat) 0

/-- R69: the frame words, cut into bytes by R11; `none` for a host command. -/
def encodeFrame : Instr → Option (List Byte)
  | .setIrun _ => none
  | .setIhold _ => none
  | .setVmax _ => none
  | .setVmin _ => none
  | .setMotorParam => none
  | .setMotorParam4 _ _ _ _ => none
  | .hardStop => none
  | .softStop => none
  | .resetPosition => none
  | .runInit => none
  | .getFullStatus1 => none
  | .getFullStatus2 => none
  | .setPosition _ => none
  | .drive _ => none
  | .getMotionStatus => none
  | .getSwitch => none
  | .getActualPosition => none
  | .burnNewAddress _ _ => none
  | .frameSetMotorParam irun ihold vmax vmin =>
    some (bytesOfFrameWord 8 (0x89#8 ++ 0xFFFF#16 ++ irun ++ ihold ++ vmax ++ vmin ++ 0#24))
  | .frameSetPosition t => some (bytesOfFrameWord 5 (0x8B#8 ++ 0xFFFF#16 ++ t))
  | .frameHardStop => some (bytesOfFrameWord 1 0x85#8)
  | .frameSoftStop => some (bytesOfFrameWord 1 0x8F#8)
  | .frameResetPosition => some (bytesOfFrameWord 1 0x86#8)
  | .frameRunInit => some (bytesOfFrameWord 1 0x88#8)
  | .frameGetFullStatus1 => some (bytesOfFrameWord 1 0x81#8)
  | .frameGetFullStatus2 => some (bytesOfFrameWord 1 0xFC#8)
  | .frameBurnAddress bits => some (bytesOfFrameWord 5 (0x90#8 ++ 0xFFFF#16 ++ 0x02#8 ++ 0#4 ++ bits))

/-- What stands on the port for an instruction: its word, or its frame. Nothing is neither a command nor a
frame (`encode_command`, `encode_frame` in Laws), so the last case answers an empty frame that no instruction meets. -/
def encode (i : Instr) : Packet :=
  match encodeWord i, encodeFrame i with
  | some w, _ => .command w
  | none, some bytes => .frame bytes
  | none, none => .frame []

/-! ## The opcode table -/

/-- One row of spec/opcode_table.json: a word of `width` bits is the row's when `w & mask = value`. -/
structure TableRow where
  mnemonic : String
  width : Nat
  value : Nat
  mask : Nat
  deriving DecidableEq, Repr

/-- The rows of spec/opcode_table.json, its numbers letter for letter. -/
def tableRow : Instr → TableRow
  | .setIrun _ => ⟨"SET_IRUN", 40, 0x0100000000, 0xFF00000000⟩
  | .setIhold _ => ⟨"SET_IHOLD", 40, 0x0200000000, 0xFF00000000⟩
  | .setVmax _ => ⟨"SET_VMAX", 40, 0x0300000000, 0xFF00000000⟩
  | .setVmin _ => ⟨"SET_VMIN", 40, 0x0400000000, 0xFF00000000⟩
  | .setMotorParam => ⟨"SET_MOTOR_PARAM", 40, 0x0500000000, 0xFF00000000⟩
  | .setMotorParam4 _ _ _ _ => ⟨"SET_MOTOR_PARAM4", 40, 0x0600000000, 0xFF00000000⟩
  | .hardStop => ⟨"HARD_STOP", 40, 0x0700000000, 0xFF00000000⟩
  | .softStop => ⟨"SOFT_STOP", 40, 0x0800000000, 0xFF00000000⟩
  | .resetPosition => ⟨"RESET_POSITION", 40, 0x0900000000, 0xFF00000000⟩
  | .runInit => ⟨"RUN_INIT", 40, 0x0A00000000, 0xFF00000000⟩
  | .getFullStatus1 => ⟨"GET_FULL_STATUS1", 40, 0x0B00000000, 0xFF00000000⟩
  | .getFullStatus2 => ⟨"GET_FULL_STATUS2", 40, 0x0C00000000, 0xFF00000000⟩
  | .setPosition _ => ⟨"SET_POSITION", 40, 0x0D00000000, 0xFF00000000⟩
  | .drive _ => ⟨"DRIVE", 40, 0x0E00000000, 0xFF00000000⟩
  | .getMotionStatus => ⟨"GET_MOTION_STATUS", 40, 0x0F00000000, 0xFF00000000⟩
  | .getSwitch => ⟨"GET_SWITCH", 40, 0x1000000000, 0xFF00000000⟩
  | .getActualPosition => ⟨"GET_ACTUAL_POSITION", 40, 0x1100000000, 0xFF00000000⟩
  | .burnNewAddress _ _ => ⟨"BURN_NEW_ADDRESS", 40, 0x1200000000, 0xFF00000000⟩
  | .frameSetMotorParam _ _ _ _ => ⟨"FRAME_SET_MOTOR_PARAM", 64, 0x89FFFF0000000000, 0xFFFFFF0000FFFFFF⟩
  | .frameSetPosition _ => ⟨"FRAME_SET_POSITION", 40, 0x8BFFFF0000, 0xFFFFFF0000⟩
  | .frameHardStop => ⟨"FRAME_HARD_STOP", 8, 0x85, 0xFF⟩
  | .frameSoftStop => ⟨"FRAME_SOFT_STOP", 8, 0x8F, 0xFF⟩
  | .frameResetPosition => ⟨"FRAME_RESET_POSITION", 8, 0x86, 0xFF⟩
  | .frameRunInit => ⟨"FRAME_RUN_INIT", 8, 0x88, 0xFF⟩
  | .frameGetFullStatus1 => ⟨"FRAME_GET_FULL_STATUS1", 8, 0x81, 0xFF⟩
  | .frameGetFullStatus2 => ⟨"FRAME_GET_FULL_STATUS2", 8, 0xFC, 0xFF⟩
  | .frameBurnAddress _ => ⟨"FRAME_BURN_ADDRESS", 40, 0x90FFFF0200, 0xFFFFFFFFF0⟩

/-- What a number of `nbits` bits of the opcode table stands on: the bus port's frame of that length where it
is one (8, 40 or 64 bits, R11's numbering), else, at 40 bits, the command port's word (R59). No 40-bit frame
opens with a legal OP, so no word is both a command and a frame. Log 10. -/
def packetOfTableWord (nbits w : Nat) : Option Packet :=
  let frame : List Byte := bytesOfFrameWord (nbits / 8) (BitVec.ofNat _ w)
  if nbits = 8 ∨ nbits = 64 then some (.frame frame)
  else if nbits = 40 then
    match decodeFrame frame with
    | some _ => some (.frame frame)
    | none => some (.command (BitVec.ofNat 40 w))
  else none

/-- The instruction the decoder reads from a number of the opcode table; `none` where it refuses. -/
def decodeTableWord (nbits w : Nat) : Option Instr :=
  (packetOfTableWord nbits w).bind decode

/-! ## Assembler syntax -/

/-- R73: the operands of a line, in their order, as integers: u8 literals, i16 literals, CONF as 0 or 1. -/
def assemblyOperands : Instr → List Int
  | .setIrun v => [v.toNat]
  | .setIhold v => [v.toNat]
  | .setVmax v => [v.toNat]
  | .setVmin v => [v.toNat]
  | .setMotorParam => []
  | .setMotorParam4 a b c d => [a.toNat, b.toNat, c.toNat, d.toNat]
  | .hardStop => []
  | .softStop => []
  | .resetPosition => []
  | .runInit => []
  | .getFullStatus1 => []
  | .getFullStatus2 => []
  | .setPosition t => [t.toInt]
  | .drive r => [r.toInt]
  | .getMotionStatus => []
  | .getSwitch => []
  | .getActualPosition => []
  | .burnNewAddress a conf => [a.toNat, conf.toNat]
  | .frameSetMotorParam _ _ _ _ => []
  | .frameSetPosition _ => []
  | .frameHardStop => []
  | .frameSoftStop => []
  | .frameResetPosition => []
  | .frameRunInit => []
  | .frameGetFullStatus1 => []
  | .frameGetFullStatus2 => []
  | .frameBurnAddress _ => []

/-- R73: a program line, `MNEMONIC [operands]`, its literals in decimal; `none` for a frame, which no line writes (R74). -/
def assemblyLine (i : Instr) : Option String :=
  if i.isFrame then none
  else
    match assemblyOperands i with
    | [] => some (tableRow i).mnemonic
    | v :: vs => some ((tableRow i).mnemonic ++ " " ++ String.intercalate ", " ((v :: vs).map toString))

end Sys2Proof
end

