-- ==== Sys2Proof/Machine/State.lean ====
section
/-! DEFINITION. The state of MSTEP (10_state.md R20), what the agents around it will still do, what a run is observed by (41_sequencer.md R98), the reasons a step can stop, and the state after reset. -/

namespace Sys2Proof.Machine

/-- PH (10_state.md R30): three phases; the value 3 is not represented, as R30 allows (log 13). -/
inductive Phase where
  /-- 0: ready to accept a command -/
  | idle
  /-- 1: a bus request is outstanding -/
  | wait
  /-- 2: a response is waiting for the host -/
  | done
  deriving DecidableEq, Repr

/-- REQ_KIND (R33): the direction of a transaction. -/
inductive ReqKind where
  | send
  | recv
  deriving DecidableEq, Repr

/-- RSP_STATUS: the completion codes of 60_exceptions.md R122, in the order of their numbers 0 to 7. -/
inductive Status where
  /-- 0 -/
  | ok
  /-- 1 (R123) -/
  | rangeError
  /-- 2 (R124) -/
  | busError
  /-- 3 (R125) -/
  | notIncreasing
  /-- 4 (R126) -/
  | outOfRange
  /-- 5 (R127) -/
  | bitCannotBeCleared
  /-- 6 (R128) -/
  | notConfirmed
  /-- 7 (R129) -/
  | illegalCommand
  deriving DecidableEq, Repr

/-- The response (00_scope.md R18): the triple (RSP_STATUS, RSP_DATA, RSP_REPLUG) that the host takes. -/
structure Response where
  status : Status
  data : Half
  replug : Bool
  deriving DecidableEq, Repr

/-- A request on the bus master port (20_memory.md R41): `sub` is the optional sub-register. -/
inductive BusRequest where
  | send (slave : SlaveAddr) (sub : Option Byte) (bytes : List Byte)
  | recv (slave : SlaveAddr) (sub : Option Byte) (count : Nat)
  deriving DecidableEq, Repr

/-- The bus agent's answer to a request (R41). -/
inductive Answer where
  /-- the frame was sent (to a SEND) -/
  | ok
  /-- the bytes received, in the order delivered (to a RECV) -/
  | data (bytes : List Byte)
  /-- the source's `BusError`, without payload -/
  | err
  deriving DecidableEq, Repr

/-- One draw of the bus agent (R46): whether the transaction fails, and the bytes a RECV delivers when it does
not. A draw answers either kind of request, so the answers R41 rules out (`data` to a SEND, `ok` to a RECV)
cannot be written down. Log 4. -/
structure BusDraw where
  fails : Bool
  bytes : List Byte
  deriving DecidableEq, Repr

/-- A record of the event history (41_sequencer.md R98). -/
inductive Record where
  | issue (request : BusRequest)
  | answer (a : Answer)
  | complete (r : Response)
  | take
  deriving DecidableEq, Repr

/-- The registers of R20, then the inputs, the observations, and the model's own counter. Plain data. -/
structure State where
  /-- IRUN (R22) -/
  irun : Nibble
  /-- IHOLD (R23) -/
  ihold : Nibble
  /-- VMAX (R24) -/
  vmax : Nibble
  /-- VMIN (R25) -/
  vmin : Nibble
  /-- DEV_ADDR (R26) -/
  devAddr : SlaveAddr
  /-- PH (R30) -/
  phase : Phase
  /-- SEQ (R31) -/
  seq : BitVec 2
  /-- CMD_OP (R32) -/
  cmdOp : Byte
  /-- CMD_ARG (R32) -/
  cmdArg : BitVec 32
  /-- REQ_KIND (R33) -/
  reqKind : ReqKind
  /-- REQ_LEN (R33) -/
  reqLen : BitVec 4
  /-- TXBUF[0..7] (R33) -/
  txbuf : Buf
  /-- RXBUF[0..7] (R34) -/
  rxbuf : Buf
  /-- RSP_STATUS (R35) -/
  rspStatus : Status
  /-- RSP_DATA (R35) -/
  rspData : Half
  /-- RSP_REPLUG (R35) -/
  rspReplug : Bool
  /-- input: the words the host still offers, in order (R88, R99) -/
  hostWords : List HostWord
  /-- input: the bus agent's draws, one for each request in the order of issue (R46). Log 4. -/
  busAnswers : List BusDraw
  /-- input: one entry for each step, E_RESET with its DEV_ADDR_INIT or none; past the list's end none (R86, R139). Log 7. -/
  resetLine : List (Option SlaveAddr)
  /-- input: another master shares the bus handle (70_reset_and_hazards.md R145). Log 11. -/
  otherMaster : Bool
  /-- the model's own input: a command frame to be sent on its own; only `withFetchWord` sets it. Log 9. -/
  frameSlot : Option (List Byte)
  /-- observation: the event history, oldest first (R98) -/
  history : List Record
  /-- observation: the accepted words, oldest first (R98) -/
  accepted : List HostWord
  /-- observation: the responses handed to the host, oldest first (R94) -/
  hostOut : List Response
  /-- the model's own counter of free values drawn. Log 3. -/
  draws : Nat
  deriving DecidableEq, Repr

/-- Why a step stops with a fault. -/
inductive Fault where
  /-- An answer came to a request that belongs to no script of R91 (CMD_OP selects no command with a transaction):
  the spec gives E_BUSRSP no rule there. Raised by `resume`. Safe: no run reaches it (R39, log 12). -/
  | noScript
  deriving DecidableEq, Repr

/-- Why a step is refused. -/
inductive Refusal where
  /-- An instruction whose meaning is not modelled, by its mnemonic. Raised by no arm of `exec`. Safe. -/
  | notModelled (mnemonic : String)
  /-- Another master shares the bus handle: "The spec gives that no meaning, and a model must refuse it"
  (70_reset_and_hazards.md R145). Raised by `step`. Safe (log 11). -/
  | sharedBusHandle
  /-- `frameSlot` holds a byte list that is none of the nine frames; MSTEP never emits another (30_encoding.md
  R68). Raised by `eventFrame`. Safe (log 9). -/
  | notAFrame
  deriving DecidableEq, Repr

/-- A frame buffer whose bytes are all zero. -/
def zeroBuf : Buf := ⟨0, 0, 0, 0, 0, 0, 0, 0⟩

/-- MSTEP right after reset (70_reset_and_hazards.md R139). The registers the rule leaves "unspecified" hold
zero, OK and SEND: DESIGN CHOICE, unsafe, log 1 (no run can tell, R39). The inputs and observations are empty. -/
def State.reset : State where
  irun := 15
  ihold := 0
  vmax := 8
  vmin := 0
  devAddr := Config.devAddrInit
  phase := .idle
  seq := 0
  cmdOp := 0
  cmdArg := 0
  reqKind := .send
  reqLen := 0
  txbuf := zeroBuf
  rxbuf := zeroBuf
  rspStatus := .ok
  rspData := 0
  rspReplug := false
  hostWords := []
  busAnswers := []
  resetLine := []
  otherMaster := false
  frameSlot := none
  history := []
  accepted := []
  hostOut := []
  draws := 0

end Sys2Proof.Machine
end

