-- ==== Sys2Proof/Machine/Codec.lean ====
section
/-! DEFINITION. The frame codec (40_codec.md): combinational, total, no state (R75). -/

namespace Sys2Proof.Machine

/-- `F[i]` of an 8-byte buffer; 0 past its end, which no caller reads. -/
def Buf.byte (b : Buf) (i : Nat) : Byte :=
  match i with
  | 0 => b.b0
  | 1 => b.b1
  | 2 => b.b2
  | 3 => b.b3
  | 4 => b.b4
  | 5 => b.b5
  | 6 => b.b6
  | 7 => b.b7
  | _ => 0

/-- The buffer's bytes in order. -/
def Buf.toList (b : Buf) : List Byte := [b.b0, b.b1, b.b2, b.b3, b.b4, b.b5, b.b6, b.b7]

/-- The buffer whose byte `i` is `f i`. -/
def Buf.ofFn (f : Nat → Byte) : Buf := ⟨f 0, f 1, f 2, f 3, f 4, f 5, f 6, f 7⟩

/-- `s16(v) = v - 65536·v[15]` (00_scope.md R12). -/
def s16 (v : Half) : Int := v.toInt

/-- `trunc16(z)`: `z mod 2^16` as a pattern (R12). -/
def trunc16 (z : Int) : Half := BitVec.ofInt 16 z

/-- R76. `(irun << 4) | ihold` is the byte with `irun` as its high nibble: both are below 16 (R48). -/
def encodeSetMotorParam (irun ihold vmax vmin : Nibble) : List Byte :=
  [0x89, 0xFF, 0xFF,
    (irun.setWidth 8 <<< 4) ||| ihold.setWidth 8,
    (vmax.setWidth 8 <<< 4) ||| vmin.setWidth 8,
    0x00, 0x00, 0x00]

/-- R77: `target[15:8]`, then `target[7:0]`. -/
def encodeSetPosition (target : Half) : List Byte :=
  [0x8B, 0xFF, 0xFF, target.extractLsb' 8 8, target.extractLsb' 0 8]

/-- R78. -/
def encodeSimpleCommand (opcode : Byte) : List Byte := [opcode]

/-- R79: `(frame[5] & 0xE0) >> 5`, 3 bits. -/
def decodeMotionStatus (frame : Buf) : BitVec 3 := ((frame.byte 5 &&& 0xE0) >>> 5).setWidth 3

/-- R81: `(frame[5] & 0x10) != 0`. -/
def decodeSwitchState (frame : Buf) : Bool := (frame.byte 5 &&& 0x10) != 0

/-- R82: `s16((frame[1] << 8) | frame[2])`, big-endian (R47). -/
def decodeActualPosition (frame : Buf) : Int :=
  s16 (((frame.byte 1).setWidth 16 <<< 8) ||| (frame.byte 2).setWidth 16)

/-- R84: `(a & 0x1E) >> 1`, bits 4..1 of an address, for a host byte or DEV_ADDR widened to one. -/
def otpBits (a : Byte) : Nibble := ((a &&& 0x1E) >>> 1).setWidth 4

/-- R83. -/
def encodeBurnAddress (newAddr : Byte) : List Byte :=
  [0x90, 0xFF, 0xFF, 0x02, (otpBits newAddr).setWidth 8]

/-- The names of the motion status (R80). Labels only: MSTEP returns the number and never acts on the name. -/
inductive MotionState where
  | idle
  | acceleratingPositive
  | constantVelocityPositive
  | deceleratingPositive
  | stalled
  | acceleratingNegative
  | constantVelocityNegative
  | deceleratingNegative
  deriving DecidableEq, Repr

/-- R80's table (90_conflicts.md C3: stalled is 4). -/
def motionState (v : BitVec 3) : MotionState :=
  match v.toNat with
  | 0 => .idle
  | 1 => .acceleratingPositive
  | 2 => .constantVelocityPositive
  | 3 => .deceleratingPositive
  | 4 => .stalled
  | 5 => .acceleratingNegative
  | 6 => .constantVelocityNegative
  | _ => .deceleratingNegative

end Sys2Proof.Machine
end

