-- ==== Sys2Proof/Machine/Flags.lean ====
section
/-! DEFINITION. The completion codes' numbers, the phase's number, and the two shapes of a response: MSTEP's only flag-like outputs (10_state.md R36). -/

namespace Sys2Proof.Machine

/-- 60_exceptions.md R122: the value of RSP_STATUS. -/
def Status.code : Status → BitVec 3
  | .ok => 0
  | .rangeError => 1
  | .busError => 2
  | .notIncreasing => 3
  | .outOfRange => 4
  | .bitCannotBeCleared => 5
  | .notConfirmed => 6
  | .illegalCommand => 7

/-- 10_state.md R30: the value of PH. -/
def Phase.code : Phase → BitVec 2
  | .idle => 0
  | .wait => 1
  | .done => 2

/-- The response of `finish(d, replug)` (00_scope.md R15, 41_sequencer.md R93). -/
def okResponse (d : Half) (replug : Bool) : Response := ⟨.ok, d, replug⟩

/-- The response of `raise E`: RSP_DATA and RSP_REPLUG are 0 (R15, R93). -/
def errorResponse (e : Status) : Response := ⟨e, 0, false⟩

end Sys2Proof.Machine
end

