-- ==== Sys2Proof/Machine/Operands.lean ====
section
/-! DEFINITION. Operands as the command rules use them: the range check of the setters, and what a later script step reads from CMD_ARG (30_encoding.md R60, R64). -/

namespace Sys2Proof.Machine

/-- `v > 15`, unsigned (R64, 42_config.md R100): out of a configuration register's range. -/
def aboveFifteen (v : Byte) : Bool := 15 < v.toNat

/-- `v[3:0]` (R100). -/
def lowFour (v : Byte) : Nibble := v.extractLsb' 0 4

/-- `CMD_ARG[15:0]`, the 16-bit operand (R60, format H16). -/
def State.argHalf (s : State) : Half := s.cmdArg.extractLsb' 0 16

/-- DEV_ADDR as an unsigned byte, to compare it with ADDR (R64, 45_address_burn.md R117). -/
def State.devAddrByte (s : State) : Byte := s.devAddr.setWidth 8

end Sys2Proof.Machine
end

