-- ==== Sys2Proof/Machine/Ops.lean ====
section
/-! DEFINITION. The shared operations of the sequencer: issuing a transaction (41_sequencer.md R89), completing a command (R93) by `finish` or by the error entry `raise` (60_exceptions.md R132), the return from it (R94, R133), latching a word (R87), reset (70_reset_and_hazards.md R139). -/

namespace Sys2Proof.Machine

/-- A request as a command rule writes it: `SEND bytes` or `RECV 8` (00_scope.md R14). -/
inductive Req where
  | send (bytes : List Byte)
  | recv
  deriving DecidableEq, Repr

/-- REQ_KIND of a request. -/
def Req.kind : Req → ReqKind
  | .send _ => .send
  | .recv => .recv

/-- REQ_LEN of a request: the frame's length, or 8 (10_state.md R33). -/
def Req.len : Req → Nat
  | .send bytes => bytes.length
  | .recv => 8

/-- TXBUF after the request is issued: its bytes for a SEND, and `free` wherever R33 leaves a byte unspecified
(at and above REQ_LEN, and everywhere during a RECV). Log 3. -/
def Req.txbuf (r : Req) (free : Nat → Byte) : Buf :=
  match r with
  | .send bytes => Buf.ofFn fun i => bytes.getD i (free i)
  | .recv => Buf.ofFn free

/-- The request as the bus sees it: no sub-register (20_memory.md R42), 8 bytes asked of a RECV. -/
def Req.onBus (r : Req) (slave : SlaveAddr) : BusRequest :=
  match r with
  | .send bytes => .send slave none bytes
  | .recv => .recv slave none 8

/-- `issue(k, req)` (R89): one bus transaction, recorded. It draws the free value of TXBUF's unspecified bytes (log 3). -/
def State.issue (k : BitVec 2) (r : Req) (s : State) : State :=
  { s with
    seq := k
    reqKind := r.kind
    reqLen := BitVec.ofNat 4 r.len
    txbuf := r.txbuf (Config.freeByte s.draws)
    phase := .wait
    history := s.history ++ [.issue (r.onBus s.devAddr)]
    draws := s.draws + 1 }

/-- Completion (R93): the response registers, PH = DONE, the record. It undoes nothing. -/
def State.complete (r : Response) (s : State) : State :=
  { s with
    rspStatus := r.status
    rspData := r.data
    rspReplug := r.replug
    phase := .done
    history := s.history ++ [.complete r] }

/-- Taking an exception: `raise E` (00_scope.md R15, 60_exceptions.md R132). It saves nothing but the response
registers, changes no mode or mask, goes to no vector; the sequencer enters DONE. -/
def State.raise (e : Status) (s : State) : State := s.complete (errorResponse e)

/-- `finish(d, replug)` (R15). -/
def State.finish (d : Half) (replug : Bool) (s : State) : State := s.complete (okResponse d replug)

/-- The response registers as the triple the host takes (00_scope.md R18). -/
def State.response (s : State) : Response := ⟨s.rspStatus, s.rspData, s.rspReplug⟩

/-- The return from a completion, good or bad: E_TAKE (R94, 60_exceptions.md R133). -/
def State.take (s : State) : State :=
  { s with
    phase := .idle
    hostOut := s.hostOut ++ [s.response]
    history := s.history ++ [.take] }

/-- The first two lines of E_ACCEPT (R87): CMD_OP and CMD_ARG hold the word's fields, ignored bits and all (R32). -/
def State.latch (w : HostWord) (s : State) : State :=
  { s with
    cmdOp := opOf w
    cmdArg := operandOf w
    accepted := s.accepted ++ [w] }

/-- The record of an answer (R90). -/
def State.answered (a : Answer) (s : State) : State := { s with history := s.history ++ [.answer a] }

/-- `RXBUF[i] <- b[i]` for i in 0..7 (20_memory.md R44). -/
def State.receive (bytes : List Byte) (s : State) : State := { s with rxbuf := Buf.ofFn fun i => bytes.getD i 0 }

/-- The frame of the outstanding SEND, TXBUF[0 .. REQ_LEN-1] (10_state.md R33). -/
def State.sent (s : State) : List Byte := s.txbuf.toList.take s.reqLen.toNat

/-- The answer a draw gives to a request of a kind (20_memory.md R41). -/
def BusDraw.answer (d : BusDraw) (k : ReqKind) : Answer :=
  if d.fails then .err
  else
    match k with
    | .send => .ok
    | .recv => .data d.bytes

/-- The reset line's entry of this step is used up (log 7). -/
def State.ticked (s : State) : State := { s with resetLine := s.resetLine.tail }

/-- The host has `ws` left to offer. -/
def State.offering (ws : List HostWord) (s : State) : State := { s with hostWords := ws }

/-- The bus agent has `ds` left to give. -/
def State.answering (ds : List BusDraw) (s : State) : State := { s with busAnswers := ds }

/-- The frame has been taken from `frameSlot`. -/
def State.slotTaken (s : State) : State := { s with frameSlot := none }

/-- The answers not yet given when an E_RESET comes: the one to a request outstanding at the reset "is never
taken" (70_reset_and_hazards.md R141). Log 4. -/
def State.answersAfterReset (s : State) : List BusDraw :=
  match s.phase with
  | .wait => s.busAnswers.tail
  | .idle => s.busAnswers
  | .done => s.busAnswers

/-- E_RESET (R139) with the parameter DEV_ADDR_INIT = `d`: every register as in `State.reset`, no record, no
response; what the other agents will do stays, but for the abandoned request's answer (R141). -/
def State.eventReset (d : SlaveAddr) (s : State) : State :=
  { State.reset with
    devAddr := d
    hostWords := s.hostWords
    busAnswers := s.answersAfterReset
    resetLine := s.resetLine
    otherMaster := s.otherMaster
    frameSlot := s.frameSlot
    history := s.history
    accepted := s.accepted
    hostOut := s.hostOut
    draws := s.draws }

end Sys2Proof.Machine
end

