-- ==== Sys2Proof/Machine/Burn.lean ====
section
/-! DEFINITION. BURN_NEW_ADDRESS (45_address_burn.md R117 to R121). -/

namespace Sys2Proof.Machine

/-- Steps 1 to 3 and the confirmation gate, in the order of R118: the first check that fails. Step 4 comes
before the gate and cannot fail. -/
def burnError (cur n : Byte) (conf : Bool) : Option Status :=
  if n.toNat ≤ cur.toNat then some .notIncreasing
  else if 0x7F < n.toNat then some .outOfRange
  else if otpBits cur &&& ~~~otpBits n ≠ 0 then some .bitCannotBeCleared
  else if conf = false then some .notConfirmed
  else none

/-- Step 4, the jumper bit (R120): an odd address is decremented. -/
def dropJumper (n : Byte) : Byte := if n.getLsbD 0 then n - 1 else n

/-- BURN_NEW_ADDRESS, accept (R117). -/
def execBurnNewAddress (addr : Byte) (conf : Bool) (s : State) : Host.Outcome State Fault Refusal :=
  .next (match burnError s.devAddrByte addr conf with
    | some e => s.raise e
    | none => s.issue 0 (.send (encodeBurnAddress (dropJumper addr))))

/-- The burn's completion: the replug note (R121). DEV_ADDR keeps its value. -/
def afterBurnNewAddress (_k : Nat) (s : State) : State := s.finish 0 true

end Sys2Proof.Machine
end

