-- ==== Sys2Proof/Machine/ConfigCommands.lean ====
section
/-! DEFINITION. The configuration commands (42_config.md R100 to R105): `exec…` is the accept part, run by E_ACCEPT; `after…` is what E_BUSRSP does once step `k - 1` of the script is answered with success (41_sequencer.md R90). -/

namespace Sys2Proof.Machine

/-- SET_IRUN (R100). -/
def execSetIrun (value : Byte) (s : State) : Host.Outcome State Fault Refusal :=
  .next (if aboveFifteen value then s.raise .rangeError
    else State.finish 0 false { s with irun := lowFour value })

/-- SET_IHOLD (R101). -/
def execSetIhold (value : Byte) (s : State) : Host.Outcome State Fault Refusal :=
  .next (if aboveFifteen value then s.raise .rangeError
    else State.finish 0 false { s with ihold := lowFour value })

/-- SET_VMAX (R102). -/
def execSetVmax (value : Byte) (s : State) : Host.Outcome State Fault Refusal :=
  .next (if aboveFifteen value then s.raise .rangeError
    else State.finish 0 false { s with vmax := lowFour value })

/-- SET_VMIN (R103). -/
def execSetVmin (value : Byte) (s : State) : Host.Outcome State Fault Refusal :=
  .next (if aboveFifteen value then s.raise .rangeError
    else State.finish 0 false { s with vmin := lowFour value })

/-- The frame build of SET_MOTOR_PARAM and SET_MOTOR_PARAM4 from the configuration registers (R104). -/
def State.motorParamFrame (s : State) : List Byte := encodeSetMotorParam s.irun s.ihold s.vmax s.vmin

/-- SET_MOTOR_PARAM (R104). -/
def execSetMotorParam (s : State) : Host.Outcome State Fault Refusal :=
  .next (s.issue 0 (.send s.motorParamFrame))

/-- SET_MOTOR_PARAM after its one step (R104). -/
def afterSetMotorParam (_k : Nat) (s : State) : State := s.finish 0 false

/-- The write of SET_MOTOR_PARAM4 (R105). -/
def State.withMotorParams (a b c d : Byte) (s : State) : State :=
  { s with irun := lowFour a, ihold := lowFour b, vmax := lowFour c, vmin := lowFour d }

/-- SET_MOTOR_PARAM4 (R105): all four checked before any is written; the frame is built from the new values (41_sequencer.md R92). -/
def execSetMotorParam4 (a b c d : Byte) (s : State) : Host.Outcome State Fault Refusal :=
  .next (if aboveFifteen a || aboveFifteen b || aboveFifteen c || aboveFifteen d then s.raise .rangeError
    else
      let s' := s.withMotorParams a b c d
      s'.issue 0 (.send s'.motorParamFrame))

/-- SET_MOTOR_PARAM4 after its one step (R105). -/
def afterSetMotorParam4 (_k : Nat) (s : State) : State := s.finish 0 false

end Sys2Proof.Machine
end

