-- ==== Sys2Proof/Machine/Frames.lean ====
section
/-! DEFINITION. The rows of format F*: the command frames MSTEP emits (30_encoding.md R65). A frame's meaning is the transaction that carries it, `issue(SEQ, SEND frame)` (41_sequencer.md R89), as the script step SEQ stands at. In a run this happens inside the event that issues the frame; log 9. -/

namespace Sys2Proof.Machine

/-- FM (40_codec.md R76). -/
def execFrameSetMotorParam (irun ihold vmax vmin : Nibble) (s : State) : Host.Outcome State Fault Refusal :=
  .next (s.issue s.seq (.send (encodeSetMotorParam irun ihold vmax vmin)))

/-- FP (R77). -/
def execFrameSetPosition (target : Half) (s : State) : Host.Outcome State Fault Refusal :=
  .next (s.issue s.seq (.send (encodeSetPosition target)))

/-- FS 0x85 (R78). -/
def execFrameHardStop (s : State) : Host.Outcome State Fault Refusal :=
  .next (s.issue s.seq (.send (encodeSimpleCommand 0x85)))

/-- FS 0x8F (R78). -/
def execFrameSoftStop (s : State) : Host.Outcome State Fault Refusal :=
  .next (s.issue s.seq (.send (encodeSimpleCommand 0x8F)))

/-- FS 0x86 (R78). -/
def execFrameResetPosition (s : State) : Host.Outcome State Fault Refusal :=
  .next (s.issue s.seq (.send (encodeSimpleCommand 0x86)))

/-- FS 0x88 (R78). -/
def execFrameRunInit (s : State) : Host.Outcome State Fault Refusal :=
  .next (s.issue s.seq (.send (encodeSimpleCommand 0x88)))

/-- FS 0x81 (R78). -/
def execFrameGetFullStatus1 (s : State) : Host.Outcome State Fault Refusal :=
  .next (s.issue s.seq (.send (encodeSimpleCommand 0x81)))

/-- FS 0xFC (R78). -/
def execFrameGetFullStatus2 (s : State) : Host.Outcome State Fault Refusal :=
  .next (s.issue s.seq (.send (encodeSimpleCommand 0xFC)))

/-- An address whose OTP bits are `bits` and whose other bits are 0 (R84): bits 4..1. -/
def addressOfOtpBits (bits : Nibble) : Byte := bits.setWidth 8 <<< 1

/-- FB (R83), by an address that has these OTP bits: bits 6..5 and 0 do not reach the frame. -/
def execFrameBurnAddress (newBits : Nibble) (s : State) : Host.Outcome State Fault Refusal :=
  .next (s.issue s.seq (.send (encodeBurnAddress (addressOfOtpBits newBits))))

end Sys2Proof.Machine
end

