-- ==== Sys2Proof/Machine/Motion.lean ====
section
/-! DEFINITION. The motion and single-opcode commands (43_motion.md R106 to R113): accept parts and what follows a successful answer. -/

namespace Sys2Proof.Machine

/-- HARD_STOP (R106). -/
def execHardStop (s : State) : Host.Outcome State Fault Refusal :=
  .next (s.issue 0 (.send (encodeSimpleCommand 0x85)))

def afterHardStop (_k : Nat) (s : State) : State := s.finish 0 false

/-- SOFT_STOP (R107). -/
def execSoftStop (s : State) : Host.Outcome State Fault Refusal :=
  .next (s.issue 0 (.send (encodeSimpleCommand 0x8F)))

def afterSoftStop (_k : Nat) (s : State) : State := s.finish 0 false

/-- RESET_POSITION (R108): the position is the chip's; no register of MSTEP is reset. -/
def execResetPosition (s : State) : Host.Outcome State Fault Refusal :=
  .next (s.issue 0 (.send (encodeSimpleCommand 0x86)))

def afterResetPosition (_k : Nat) (s : State) : State := s.finish 0 false

/-- RUN_INIT (R109). -/
def execRunInit (s : State) : Host.Outcome State Fault Refusal :=
  .next (s.issue 0 (.send (encodeSimpleCommand 0x88)))

def afterRunInit (_k : Nat) (s : State) : State := s.finish 0 false

/-- GET_FULL_STATUS1 used alone (R110): no RECV, no data. -/
def execGetFullStatus1 (s : State) : Host.Outcome State Fault Refusal :=
  .next (s.issue 0 (.send (encodeSimpleCommand 0x81)))

def afterGetFullStatus1 (_k : Nat) (s : State) : State := s.finish 0 false

/-- GET_FULL_STATUS2 used alone (R111): no RECV, no data. -/
def execGetFullStatus2 (s : State) : Host.Outcome State Fault Refusal :=
  .next (s.issue 0 (.send (encodeSimpleCommand 0xFC)))

def afterGetFullStatus2 (_k : Nat) (s : State) : State := s.finish 0 false

/-- SET_POSITION (R112): every 16-bit pattern is a legal target. -/
def execSetPosition (target : Half) (s : State) : Host.Outcome State Fault Refusal :=
  .next (s.issue 0 (.send (encodeSetPosition target)))

def afterSetPosition (_k : Nat) (s : State) : State := s.finish 0 false

/-- DRIVE (R113), accept: the status request; the operand is used at step 2, from CMD_ARG. -/
def execDrive (_relativeSteps : Half) (s : State) : Host.Outcome State Fault Refusal :=
  .next (s.issue 0 (.send (encodeSimpleCommand 0xFC)))

/-- DRIVE's target (R113): `trunc16(p + s16(CMD_ARG[15:0]))`, with `p` the position in RXBUF. -/
def State.driveTarget (s : State) : Half := trunc16 (decodeActualPosition s.rxbuf + s16 s.argHalf)

/-- DRIVE after step 0: the RECV; after step 1: the target; after step 2: done (R113). -/
def afterDrive (k : Nat) (s : State) : State :=
  match k with
  | 1 => s.issue 1 .recv
  | 2 => s.issue 2 (.send (encodeSetPosition s.driveTarget))
  | _ => s.finish 0 false

end Sys2Proof.Machine
end

