-- ==== Sys2Proof/Machine/StatusQueries.lean ====
section
/-! DEFINITION. The status queries (44_status.md R114 to R116): a one-byte request, a RECV, the decode of RXBUF. -/

namespace Sys2Proof.Machine

/-- GET_MOTION_STATUS (R114). -/
def execGetMotionStatus (s : State) : Host.Outcome State Fault Refusal :=
  .next (s.issue 0 (.send (encodeSimpleCommand 0x81)))

def afterGetMotionStatus (k : Nat) (s : State) : State :=
  match k with
  | 1 => s.issue 1 .recv
  | _ => s.finish ((decodeMotionStatus s.rxbuf).setWidth 16) false

/-- GET_SWITCH (R115). -/
def execGetSwitch (s : State) : Host.Outcome State Fault Refusal :=
  .next (s.issue 0 (.send (encodeSimpleCommand 0x81)))

def afterGetSwitch (k : Nat) (s : State) : State :=
  match k with
  | 1 => s.issue 1 .recv
  | _ => s.finish (if decodeSwitchState s.rxbuf then 1 else 0) false

/-- GET_ACTUAL_POSITION (R116). -/
def execGetActualPosition (s : State) : Host.Outcome State Fault Refusal :=
  .next (s.issue 0 (.send (encodeSimpleCommand 0xFC)))

def afterGetActualPosition (k : Nat) (s : State) : State :=
  match k with
  | 1 => s.issue 1 .recv
  | _ => s.finish (trunc16 (decodeActualPosition s.rxbuf)) false

end Sys2Proof.Machine
end

