-- ==== Sys2Proof/Machine/Dispatch.lean ====
section
/-! DEFINITION. One arm per constructor of Instr. For a host command this is the accept part of its rule (41_sequencer.md R87). -/

namespace Sys2Proof.Machine

def exec (i : Instr) (s : State) : Host.Outcome State Fault Refusal :=
  match i with
  | .setIrun v => Sys2Proof.Machine.execSetIrun v s
  | .setIhold v => Sys2Proof.Machine.execSetIhold v s
  | .setVmax v => Sys2Proof.Machine.execSetVmax v s
  | .setVmin v => Sys2Proof.Machine.execSetVmin v s
  | .setMotorParam => Sys2Proof.Machine.execSetMotorParam s
  | .setMotorParam4 a b c d => Sys2Proof.Machine.execSetMotorParam4 a b c d s
  | .hardStop => Sys2Proof.Machine.execHardStop s
  | .softStop => Sys2Proof.Machine.execSoftStop s
  | .resetPosition => Sys2Proof.Machine.execResetPosition s
  | .runInit => Sys2Proof.Machine.execRunInit s
  | .getFullStatus1 => Sys2Proof.Machine.execGetFullStatus1 s
  | .getFullStatus2 => Sys2Proof.Machine.execGetFullStatus2 s
  | .setPosition t => Sys2Proof.Machine.execSetPosition t s
  | .drive r => Sys2Proof.Machine.execDrive r s
  | .getMotionStatus => Sys2Proof.Machine.execGetMotionStatus s
  | .getSwitch => Sys2Proof.Machine.execGetSwitch s
  | .getActualPosition => Sys2Proof.Machine.execGetActualPosition s
  | .burnNewAddress addr conf => Sys2Proof.Machine.execBurnNewAddress addr conf s
  | .frameSetMotorParam a b c d => Sys2Proof.Machine.execFrameSetMotorParam a b c d s
  | .frameSetPosition t => Sys2Proof.Machine.execFrameSetPosition t s
  | .frameHardStop => Sys2Proof.Machine.execFrameHardStop s
  | .frameSoftStop => Sys2Proof.Machine.execFrameSoftStop s
  | .frameResetPosition => Sys2Proof.Machine.execFrameResetPosition s
  | .frameRunInit => Sys2Proof.Machine.execFrameRunInit s
  | .frameGetFullStatus1 => Sys2Proof.Machine.execFrameGetFullStatus1 s
  | .frameGetFullStatus2 => Sys2Proof.Machine.execFrameGetFullStatus2 s
  | .frameBurnAddress bits => Sys2Proof.Machine.execFrameBurnAddress bits s

end Sys2Proof.Machine
end

