-- ==== Sys2Proof/Machine/Events.lean ====
section
/-! DEFINITION. The events of the sequencer (41_sequencer.md R86) that MSTEP's phase enables: E_ACCEPT, E_BUSRSP, E_TAKE. E_RESET is in Ops. -/

namespace Sys2Proof.Machine

/-- The rest of a command's script once step `k - 1` was answered with success: the next step, or, past the last
one, the completion part of the command's rule (R90, R91). The setters have no script and a frame is no
command: no request is theirs, so an answer has no rule there (log 12). -/
def resume (i : Instr) (k : Nat) (s : State) : Host.Outcome State Fault Refusal :=
  match i with
  | .setIrun _ => .fault .noScript
  | .setIhold _ => .fault .noScript
  | .setVmax _ => .fault .noScript
  | .setVmin _ => .fault .noScript
  | .setMotorParam => .next (afterSetMotorParam k s)
  | .setMotorParam4 _ _ _ _ => .next (afterSetMotorParam4 k s)
  | .hardStop => .next (afterHardStop k s)
  | .softStop => .next (afterSoftStop k s)
  | .resetPosition => .next (afterResetPosition k s)
  | .runInit => .next (afterRunInit k s)
  | .getFullStatus1 => .next (afterGetFullStatus1 k s)
  | .getFullStatus2 => .next (afterGetFullStatus2 k s)
  | .setPosition _ => .next (afterSetPosition k s)
  | .drive _ => .next (afterDrive k s)
  | .getMotionStatus => .next (afterGetMotionStatus k s)
  | .getSwitch => .next (afterGetSwitch k s)
  | .getActualPosition => .next (afterGetActualPosition k s)
  | .burnNewAddress _ _ => .next (afterBurnNewAddress k s)
  | .frameSetMotorParam _ _ _ _ => .fault .noScript
  | .frameSetPosition _ => .fault .noScript
  | .frameHardStop => .fault .noScript
  | .frameSoftStop => .fault .noScript
  | .frameResetPosition => .fault .noScript
  | .frameRunInit => .fault .noScript
  | .frameGetFullStatus1 => .fault .noScript
  | .frameGetFullStatus2 => .fault .noScript
  | .frameBurnAddress _ => .fault .noScript

/-- The command being executed, from CMD_OP and CMD_ARG (10_state.md R32). -/
def State.command (s : State) : Option Instr := decodeCommand s.cmdOp s.cmdArg

/-- The last two lines of E_BUSRSP (R90): `k <- SEQ + 1`, then the next step or the completion. -/
def continueScript (s : State) : Host.Outcome State Fault Refusal :=
  match s.command with
  | some i => resume i (s.seq.toNat + 1) s
  | none => .fault .noScript

/-- E_BUSRSP (R90): a failed transaction, or a RECV answer that is not 8 bytes long (20_memory.md R45), ends the
command with BUS_ERROR; a good one goes on with the script, RXBUF written first for a RECV. -/
def eventBusRsp (d : BusDraw) (s : State) : Host.Outcome State Fault Refusal :=
  let s' := s.answered (d.answer s.reqKind)
  if d.fails then .next (s'.raise .busError)
  else
    match s.reqKind with
    | .send => continueScript s'
    | .recv =>
      if d.bytes.length = 8 then continueScript (s'.receive d.bytes) else .next (s'.raise .busError)

/-- E_ACCEPT (R87): the word is latched; a legal OP runs its command's accept part, any other completes with
ILLEGAL_COMMAND (60_exceptions.md R129). -/
def eventAccept (w : HostWord) (s : State) : Host.Outcome State Fault Refusal :=
  match decodeWord w with
  | some i => exec i (s.latch w)
  | none => .next ((s.latch w).raise .illegalCommand)

/-- A frame run on its own from `frameSlot` (log 9). -/
def eventFrame (bytes : List Byte) (s : State) : Host.Outcome State Fault Refusal :=
  match decodeFrame bytes with
  | some i => exec i s
  | none => .refused .notAFrame

/-- The event the phase enables (R86, R88): E_ACCEPT in IDLE when the host offers a word, E_BUSRSP in WAIT when
the bus agent answers, E_TAKE in DONE. Where its agent does nothing the state stays as it is (R97; log 5). -/
def phaseEvent (s : State) : Host.Outcome State Fault Refusal :=
  match s.phase with
  | .idle =>
    match s.frameSlot with
    | some bytes => eventFrame bytes s.slotTaken
    | none =>
      match s.hostWords with
      | w :: ws => eventAccept w (s.offering ws)
      | [] => .next s
  | .wait =>
    match s.busAnswers with
    | d :: ds => eventBusRsp d (s.answering ds)
    | [] => .next s
  | .done => .next s.take

/-- Makes the next step run the packet: IDLE, nothing else in the way, the packet on its port (log 10). -/
def State.withPacket (s : State) (p : Packet) : State :=
  let s' := { s with phase := .idle, otherMaster := false, resetLine := none :: s.resetLine }
  match p with
  | .command w => { s' with frameSlot := none, hostWords := w :: s.hostWords }
  | .frame bytes => { s' with frameSlot := some bytes }

end Sys2Proof.Machine
end

