-- ==== Sys2Proof/Machine/Step.lean ====
section
/-! DEFINITION. One step of the machine: E_RESET where the reset line has one, else the event the phase enables (41_sequencer.md R86). -/

namespace Sys2Proof.Machine

/-- One event. Another master on the bus handle is refused (70_reset_and_hazards.md R145). -/
def step (s : State) : Host.Outcome State Fault Refusal :=
  if s.otherMaster then .refused .sharedBusHandle
  else
    match s.resetLine.head?.join with
    | some d => .next (State.eventReset d s.ticked)
    | none => phaseEvent s.ticked

/-- `s` with a number of the opcode table where the very next step takes its instruction from: a host word at the
head of the command port, a frame in `frameSlot`. A width no row has changes nothing. Log 10. -/
def State.withFetchWord (s : State) (nbits w : Nat) : State :=
  match packetOfTableWord nbits w with
  | some p => s.withPacket p
  | none => s

end Sys2Proof.Machine
end

