-- ==== Sys2Proof/Safety.lean ====
section
/-! DEFINITION. The terms claims are stated in: what one event changes and what it leaves, the script table of 41_sequencer.md R91, the invariant of every run, what an observer can see, and when a run has ended (R99). -/

namespace Sys2Proof.Machine

/-! ## What one event changes

Each relation gives the WHOLE next state, so it is also the frame: a field it does not name is unchanged. -/

/-- `t` is `s` after step `k` of a script was issued as a SEND of `bytes` (R89), after the records `recs`.
TXBUF holds the frame in its first bytes; its other bytes, and the counter of free values, may be anything. -/
def SendIssued (recs : List Record) (k : BitVec 2) (bytes : List Byte) (s t : State) : Prop :=
  ∃ tx n, tx.toList.take bytes.length = bytes ∧
    t = { s with
      seq := k
      reqKind := .send
      reqLen := BitVec.ofNat 4 bytes.length
      txbuf := tx
      phase := .wait
      history := s.history ++ recs ++ [.issue (.send s.devAddr none bytes)]
      draws := n }

/-- `t` is `s` after step `k` of a script was issued as a RECV of 8 bytes (R89), after the records `recs`. TXBUF
is unspecified (10_state.md R33). -/
def RecvIssued (recs : List Record) (k : BitVec 2) (s t : State) : Prop :=
  ∃ tx n, t = { s with
    seq := k
    reqKind := .recv
    reqLen := 8
    txbuf := tx
    phase := .wait
    history := s.history ++ recs ++ [.issue (.recv s.devAddr none 8)]
    draws := n }

/-- `t` is `s` after the command completed with the response `r` (R93), after the records `recs`. -/
def Completed (recs : List Record) (r : Response) (s t : State) : Prop :=
  t = { s with
    rspStatus := r.status
    rspData := r.data
    rspReplug := r.replug
    phase := .done
    history := s.history ++ recs ++ [.complete r] }

/-- `t` is `s` after step `k` of a script was issued, as a SEND or a RECV. -/
def Issued (recs : List Record) (k : BitVec 2) (r : Req) (s t : State) : Prop :=
  match r with
  | .send bytes => SendIssued recs k bytes s t
  | .recv => RecvIssued recs k s t

/-- How the answer to the one transaction of a command ends it (42_config.md R104 to 45_address_burn.md R117):
OK on `ok` with the note `replug`, BUS_ERROR on `err`, nothing else changed. -/
def OneStepCompletes (i : Instr) (replug : Bool) : Prop :=
  ∀ (s : State) (d : BusDraw), s.command = some i → s.reqKind = .send →
    ∃ t, eventBusRsp d s = .next t ∧
      (d.fails = true → Completed [.answer .err] ⟨.busError, 0, false⟩ s t) ∧
      (d.fails = false → Completed [.answer .ok] ⟨.ok, 0, replug⟩ s t)

/-- A status query (44_status.md R114 to R116): its OP, the request byte sent as transaction 0, the RECV issued
when that is answered, the response computed from the 8 bytes received, BUS_ERROR otherwise. -/
def TwoStepQuery (op opcode : Byte) (i : Instr) (value : Buf → Half) : Prop :=
  (∀ w : HostWord, w.extractLsb' 32 8 = op → decodeWord w = some i) ∧
  (∀ s : State, ∃ t, exec i s = .next t ∧ SendIssued [] 0 [opcode] s t) ∧
  ∀ (s : State) (d : BusDraw), s.command = some i →
    (d.fails = true → ∃ t, eventBusRsp d s = .next t ∧ Completed [.answer .err] ⟨.busError, 0, false⟩ s t) ∧
    (d.fails = false → s.seq = 0 → s.reqKind = .send →
      ∃ t, eventBusRsp d s = .next t ∧ RecvIssued [.answer .ok] 1 s t) ∧
    (d.fails = false → s.seq = 1 → s.reqKind = .recv → d.bytes.length ≠ 8 →
      ∃ t, eventBusRsp d s = .next t ∧ Completed [.answer (.data d.bytes)] ⟨.busError, 0, false⟩ s t) ∧
    (∀ b : Buf, d.fails = false → s.seq = 1 → s.reqKind = .recv → d.bytes = b.toList →
      ∃ t, eventBusRsp d s = .next t ∧
        Completed [.answer (.data d.bytes)] ⟨.ok, value b, false⟩ { s with rxbuf := b } t)

/-! ## When the next event is the phase's -/

/-- No E_RESET in this step and no other master on the bus handle. -/
def State.quiet (s : State) : Prop := s.otherMaster = false ∧ s.resetLine.head?.join = none

/-! ## The script table -/

/-- R91: the transactions of every host command, their bytes computed from the state (R92). Rows of format F*
are no commands and have no script. -/
def script (i : Instr) (s : State) : List Req :=
  match i with
  | .setIrun _ => []
  | .setIhold _ => []
  | .setVmax _ => []
  | .setVmin _ => []
  | .setMotorParam => [.send (encodeSetMotorParam s.irun s.ihold s.vmax s.vmin)]
  | .setMotorParam4 _ _ _ _ => [.send (encodeSetMotorParam s.irun s.ihold s.vmax s.vmin)]
  | .hardStop => [.send [0x85]]
  | .softStop => [.send [0x8F]]
  | .resetPosition => [.send [0x86]]
  | .runInit => [.send [0x88]]
  | .getFullStatus1 => [.send [0x81]]
  | .getFullStatus2 => [.send [0xFC]]
  | .setPosition t => [.send (encodeSetPosition t)]
  | .drive r => [.send [0xFC], .recv, .send (encodeSetPosition (trunc16 (decodeActualPosition s.rxbuf + s16 r)))]
  | .getMotionStatus => [.send [0x81], .recv]
  | .getSwitch => [.send [0x81], .recv]
  | .getActualPosition => [.send [0xFC], .recv]
  | .burnNewAddress addr _ => [.send (encodeBurnAddress (dropJumper addr))]
  | .frameSetMotorParam _ _ _ _ => []
  | .frameSetPosition _ => []
  | .frameHardStop => []
  | .frameSoftStop => []
  | .frameResetPosition => []
  | .frameRunInit => []
  | .frameGetFullStatus1 => []
  | .frameGetFullStatus2 => []
  | .frameBurnAddress _ => []

/-! ## The invariant of every run -/

/-- The outstanding request is step SEQ of the script of the command in CMD_OP and CMD_ARG, in kind, length and bytes. -/
def State.requestOk (s : State) : Bool :=
  match s.command with
  | none => false
  | some i =>
    match (script i s)[s.seq.toNat]? with
    | none => false
    | some (.send bytes) => s.reqKind == .send && s.reqLen == BitVec.ofNat 4 bytes.length && s.sent == bytes
    | some .recv => s.reqKind == .recv && s.reqLen == 8

/-- A burn that is on the bus has passed every check and was confirmed (45_address_burn.md R117). -/
def State.burnGated (s : State) : Bool :=
  match s.command with
  | some (.burnNewAddress addr conf) => burnError s.devAddrByte addr conf == none
  | _ => true

/-- The outstanding request as the bus sees it (20_memory.md R41, R42). -/
def State.outstanding (s : State) : BusRequest :=
  match s.reqKind with
  | .send => .send s.devAddr none s.sent
  | .recv => .recv s.devAddr none 8

/-- What the response registers may hold in DONE (10_state.md R35): data only from a query that succeeded, within
its range, and the replug note only from a burn that succeeded. -/
def State.responseOk (s : State) : Bool :=
  (s.rspStatus == .ok || (s.rspData == 0 && !s.rspReplug)) &&
  (!s.rspReplug || s.cmdOp == 0x12) &&
  (s.rspData == 0 || s.cmdOp == 0x0F || s.cmdOp == 0x10 || s.cmdOp == 0x11) &&
  (!(s.cmdOp == 0x0F) || s.rspData.toNat < 8) &&
  (!(s.cmdOp == 0x10) || s.rspData.toNat < 2)

/-- A record MSTEP may make: one of the nine frames to no sub-register (30_encoding.md R68, 20_memory.md R42), a
RECV of 8, a response that carries nothing on an error (60_exceptions.md R122). -/
def Record.legal : Record → Bool
  | .issue (.send _ sub bytes) => sub == none && (decodeFrame bytes).isSome
  | .issue (.recv _ sub count) => sub == none && count == 8
  | .answer _ => true
  | .complete r => r.status == .ok || (r.data == 0 && !r.replug)
  | .take => true

/-- Which record may stand right after which (20_memory.md R54, 41_sequencer.md R90, R94): an answer directly
after its own request, a take directly after a completion, after a failed answer nothing but BUS_ERROR. -/
def Record.mayFollow : Record → Record → Bool
  | .issue (.send _ _ _), .answer .ok => true
  | .issue (.recv _ _ _), .answer (.data _) => true
  | .issue _, .answer .err => true
  | _, .answer _ => false
  | .complete _, .take => true
  | _, .take => false
  | .answer .err, .issue _ => false
  | .answer .err, .complete r => r.status == .busError
  | _, .issue _ => true
  | _, .complete _ => true

/-- A history begins with a request or a completion. -/
def Record.opens : Record → Bool
  | .issue _ => true
  | .answer _ => false
  | .complete _ => true
  | .take => false

def Record.isIssue : Record → Bool
  | .issue _ => true
  | .answer _ => false
  | .complete _ => false
  | .take => false

def Record.isAnswer : Record → Bool
  | .issue _ => false
  | .answer _ => true
  | .complete _ => false
  | .take => false

def Record.isComplete : Record → Bool
  | .issue _ => false
  | .answer _ => false
  | .complete _ => true
  | .take => false

def Record.isTake : Record → Bool
  | .issue _ => false
  | .answer _ => false
  | .complete _ => false
  | .take => true

/-- How many commands stand in WAIT, 0 or 1. -/
def State.inWait (s : State) : Nat := if s.phase = .wait then 1 else 0

/-- How many responses stand in DONE, 0 or 1. -/
def State.inDone (s : State) : Nat := if s.phase = .done then 1 else 0

/-- What holds in every state of a run in which no frame was placed from outside. -/
structure Inv (s : State) : Prop where
  /-- only `withFetchWord` places a frame (log 9) -/
  noSlot : s.frameSlot = none
  request : s.phase = .wait → s.requestOk = true
  gated : s.phase = .wait → s.burnGated = true
  lastIssue : s.phase = .wait → s.history.getLast? = some (.issue s.outstanding)
  response : s.phase = .done → s.responseOk = true
  lastComplete : s.phase = .done → s.history.getLast? = some (.complete s.response)
  /-- no command is half done in IDLE, unless a reset abandoned it at its request or its response -/
  lastIdle : s.phase = .idle → ∀ r ∈ s.history.getLast?, r.isAnswer = false
  legal : ∀ r ∈ s.history, r.legal = true
  opened : ∀ r ∈ s.history.head?, r.opens = true
  serial : s.history.IsChain fun a b => a.mayFollow b = true
  /-- each E_TAKE hands out one response (R94) -/
  taken : s.history.countP Record.isTake = s.hostOut.length
  /-- no response without a completion, no completion without an accepted word (60_exceptions.md R131) -/
  taken_le : s.history.countP Record.isTake + s.inDone ≤ s.history.countP Record.isComplete
  completed_le : s.history.countP Record.isComplete + s.inWait ≤ s.accepted.length

/-! ## What an observer sees -/

/-- What matters of the sequencer in each phase (10_state.md R31 to R37): nothing in IDLE, the command with the
outstanding request in WAIT, the response in DONE. -/
inductive PhaseView where
  | idle
  | wait (command : Option Instr) (seq : BitVec 2) (request : BusRequest)
  | done (r : Response)
  deriving DecidableEq, Repr

/-- A state less its hidden registers: host words are seen as the commands they decode to (30_encoding.md R61). -/
structure View where
  config : List Nibble
  devAddr : SlaveAddr
  phase : PhaseView
  words : List (Option Instr)
  busAnswers : List BusDraw
  resetLine : List (Option SlaveAddr)
  otherMaster : Bool
  frameSlot : Option (List Byte)
  history : List Record
  accepted : List (Option Instr)
  hostOut : List Response
  deriving DecidableEq, Repr

def State.phaseView (s : State) : PhaseView :=
  match s.phase with
  | .idle => .idle
  | .wait => .wait s.command s.seq s.outstanding
  | .done => .done s.response

def State.view (s : State) : View where
  config := [s.irun, s.ihold, s.vmax, s.vmin]
  devAddr := s.devAddr
  phase := s.phaseView
  words := s.hostWords.map decodeWord
  busAnswers := s.busAnswers
  resetLine := s.resetLine
  otherMaster := s.otherMaster
  frameSlot := s.frameSlot
  history := s.history
  accepted := s.accepted.map decodeWord
  hostOut := s.hostOut

/-- The outcome of a run as an observer sees it. -/
def viewOutcome : Host.Outcome State Fault Refusal → Host.Outcome View Fault Refusal
  | .next s => .next s.view
  | .fault r => .fault r
  | .refused r => .refused r

/-! ## When a run has ended -/

/-- R99: every word the host offered has been accepted, each accepted word's response has been taken, PH = IDLE.
A state with a request unanswered (R97) is not ended; nor is any state after an E_RESET in WAIT or DONE
(70_reset_and_hazards.md R141), whose abandoned command has no response to take (log 17). The definition says
nothing of what the chip did. -/
def State.ended (s : State) : Bool :=
  s.hostWords == [] && s.phase == .idle && s.hostOut.length == s.accepted.length && s.frameSlot == none

end Sys2Proof.Machine
end

