-- ==== Sys2Proof/Certificates/Slice0/Obligations.lean ====
section
/-! DEFINITION. The statements for the provers. `SendIssued`, `RecvIssued` and `Completed` (Safety) each give the whole next state, so each is also the frame: a field they do not name is unchanged. MSTEP has no memory (20_memory.md R40). -/

open Sys2Proof
open Sys2Proof.Machine

/-! ## Reset -/

/-- 70_reset_and_hazards.md R139: the values the rule gives. The other registers' values are the model's choice
(log 1) and are not stated. -/
def Obligations.PowerOnStateHoldsTheResetValues : Prop :=
  State.reset.irun = 15 ∧ State.reset.ihold = 0 ∧ State.reset.vmax = 8 ∧ State.reset.vmin = 0 ∧
  State.reset.devAddr = Config.devAddrInit ∧ State.reset.phase = .idle

/-- R139, R141: an E_RESET in any phase: the reset values, the new DEV_ADDR_INIT, IDLE; no record and no response.
The model's choices: that the history, the accepted words and the responses stay in State across it (log 8), that
the reset line has one entry a step (`resetLine = rest`, log 7), and that with another master the step is refused
instead (log 11; `SharedBusHandleIsRefused`). -/
def Obligations.ResetEventFromAnyState : Prop :=
  ∀ (s : State) (d : SlaveAddr) (rest : List (Option SlaveAddr)),
    s.otherMaster = false → s.resetLine = some d :: rest →
    ∃ t, step s = .next t ∧
      t.irun = 15 ∧ t.ihold = 0 ∧ t.vmax = 8 ∧ t.vmin = 0 ∧ t.devAddr = d ∧ t.phase = .idle ∧
      t.history = s.history ∧ t.hostOut = s.hostOut ∧ t.accepted = s.accepted ∧ t.hostWords = s.hostWords ∧
      t.resetLine = rest

/-- R141: an E_RESET in WAIT abandons the command: the answer to its request is never taken by any later step, and
the next word offered is accepted as from IDLE. The model's choices: that the
abandoned request's draw is dropped from `busAnswers` (log 4), that the history stays (log 8), and that a step
with no enabled event answers the same state (log 5). -/
def Obligations.ResetAbandonsTheOutstandingRequest : Prop :=
  ∀ (s : State) (d : SlaveAddr) (a : BusDraw) (rest : List BusDraw),
    s.otherMaster = false → s.resetLine = [some d] → s.phase = .wait → s.busAnswers = a :: rest →
    ∃ t, step s = .next t ∧ t.phase = .idle ∧ t.history = s.history ∧ t.busAnswers = rest ∧
      (s.frameSlot = none → s.hostWords = [] → ∀ n, core.run n t = .next t) ∧
      (∀ w ws, s.frameSlot = none → s.hostWords = w :: ws →
        ∃ u, step t = .next u ∧ u.accepted = s.accepted ++ [w] ∧ u.hostWords = ws ∧ u.busAnswers = rest)

/-! ## What one step is -/

/-- Where the command port offers a word that decodes to `i`, and where a frame stands to be sent, the step is
`exec i`: of the state with the word taken and latched, or with the frame taken. The frame half is the model's
own convention (log 9). -/
def Obligations.StepRunsTheDecodedInstruction : Prop :=
  (∀ (s : State) (w : HostWord) (ws : List HostWord) (i : Instr),
    s.quiet → s.phase = .idle → s.frameSlot = none → s.hostWords = w :: ws → decodeWord w = some i →
    step s = exec i { s.ticked with
      hostWords := ws, cmdOp := opOf w, cmdArg := operandOf w, accepted := s.accepted ++ [w] }) ∧
  (∀ (s : State) (bytes : List Byte) (i : Instr),
    s.quiet → s.phase = .idle → s.frameSlot = some bytes → decodeFrame bytes = some i →
    step s = exec i { s.ticked with frameSlot := none })

/-- 41_sequencer.md R87: E_ACCEPT latches the word; a legal OP runs its command's accept part, any other raises
ILLEGAL_COMMAND; the event ends in exactly one of the three ways: an error completion, a success completion, or
the issue of transaction 0. It leaves DONE or WAIT, never IDLE. -/
def Obligations.EveryAcceptEndsInDoneOrWait : Prop :=
  ∀ (s : State) (w : HostWord) (ws : List HostWord),
    s.quiet → s.phase = .idle → s.frameSlot = none → s.hostWords = w :: ws →
    ∃ t, step s = .next t ∧ t.cmdOp = w.extractLsb' 32 8 ∧ t.cmdArg = w.extractLsb' 0 32 ∧
      t.accepted = s.accepted ++ [w] ∧ t.hostWords = ws ∧
      (1 ≤ (opOf w).toNat ∧ (opOf w).toNat ≤ 0x12 → ∃ i, decodeWord w = some i ∧
        exec i (State.latch w { s.ticked with hostWords := ws }) = .next t) ∧
      (¬(1 ≤ (opOf w).toNat ∧ (opOf w).toNat ≤ 0x12) →
        t.phase = .done ∧ t.rspStatus = .illegalCommand) ∧
      ((∃ e, e ≠ .ok ∧ t.phase = .done ∧ t.response = ⟨e, 0, false⟩ ∧
          t.history = s.history ++ [.complete ⟨e, 0, false⟩]) ∨
        (t.phase = .done ∧ t.response = ⟨.ok, 0, false⟩ ∧ t.history = s.history ++ [.complete ⟨.ok, 0, false⟩]) ∨
        (t.phase = .wait ∧ t.seq = 0 ∧ ∃ bytes, t.history = s.history ++ [.issue (.send s.devAddr none bytes)]))

/-- 30_encoding.md R63, 60_exceptions.md R129: a word with OP 0x00 or 0x13..0xFF is accepted and completes at
once with ILLEGAL_COMMAND; beside the latched word and the completion nothing changes. -/
def Obligations.IllegalWordCompletesAtOnce : Prop :=
  ∀ (s : State) (w : HostWord) (ws : List HostWord),
    s.quiet → s.phase = .idle → s.frameSlot = none → s.hostWords = w :: ws →
    (w.extractLsb' 32 8 = 0 ∨ 0x13 ≤ (w.extractLsb' 32 8).toNat) →
    ∃ t, step s = .next t ∧ t.rspStatus.code = 7 ∧
      Completed [] ⟨.illegalCommand, 0, false⟩
        { s.ticked with
          hostWords := ws, cmdOp := w.extractLsb' 32 8, cmdArg := w.extractLsb' 0 32, accepted := s.accepted ++ [w] }
        t

/-- R88: while PH is not IDLE no word is accepted and none is lost. -/
def Obligations.OfferedWordsWaitWhileBusy : Prop :=
  ∀ s t : State, s.phase ≠ .idle → step s = .next t → t.hostWords = s.hostWords ∧ t.accepted = s.accepted

/-- R94: E_TAKE hands the response to the host, returns to IDLE, and changes nothing else. -/
def Obligations.TakeHandsOverTheResponse : Prop :=
  ∀ s : State, s.quiet → s.phase = .done →
    step s = .next { s.ticked with
      phase := .idle
      hostOut := s.hostOut ++ [⟨s.rspStatus, s.rspData, s.rspReplug⟩]
      history := s.history ++ [.take] }

/-- R97: a request that is never answered leaves PH = WAIT for ever, and the state never counts as ended. The
model's choices: the empty list of draws is the bus agent that never answers (log 4), and a step with no enabled
event answers the very same state (log 5). -/
def Obligations.UnansweredRequestWaitsForEver : Prop :=
  ∀ (s : State) (n : Nat), s.otherMaster = false → s.resetLine = [] → s.phase = .wait → s.busAnswers = [] →
    core.run n s = .next s ∧ s.ended = false

/-- 70_reset_and_hazards.md R145: a second master on the bus handle is refused, whatever the state. -/
def Obligations.SharedBusHandleIsRefused : Prop :=
  ∀ s : State, s.otherMaster = true → step s = .refused .sharedBusHandle

/-! ## The codec -/

/-- 40_codec.md R76: the eight bytes, the nibbles by arithmetic. -/
def Obligations.SetMotorParamFrameBytes : Prop :=
  ∀ irun ihold vmax vmin : Nibble, ∃ f3 f4 : Byte,
    encodeSetMotorParam irun ihold vmax vmin = [0x89, 0xFF, 0xFF, f3, f4, 0x00, 0x00, 0x00] ∧
    f3.toNat = irun.toNat * 16 + ihold.toNat ∧ f4.toNat = vmax.toNat * 16 + vmin.toNat

/-- R77, R47: the five bytes, the target big-endian. -/
def Obligations.SetPositionFrameBytes : Prop :=
  ∀ target : Half, ∃ hi lo : Byte,
    encodeSetPosition target = [0x8B, 0xFF, 0xFF, hi, lo] ∧ target.toNat = hi.toNat * 256 + lo.toNat

/-- R85, laws 1 to 3: the nibbles can be read back, a position survives the round trip, and the two status
decodes are the bit fields they name. -/
def Obligations.CodecLawsHold : Prop :=
  (∀ a b c d : Nibble,
    (∃ x : Byte, (encodeSetMotorParam a b c d)[3]? = some x ∧ x >>> 4 = a.setWidth 8 ∧ x &&& 0xF = b.setWidth 8) ∧
    (∃ y : Byte, (encodeSetMotorParam a b c d)[4]? = some y ∧ y >>> 4 = c.setWidth 8 ∧ y &&& 0xF = d.setWidth 8)) ∧
  (∀ (t : Half) (f : Buf), (encodeSetPosition t)[3]? = some f.b1 → (encodeSetPosition t)[4]? = some f.b2 →
    decodeActualPosition f = t.toInt) ∧
  (∀ f : Buf, (decodeMotionStatus f).toNat = f.b5.toNat / 32 ∧
    (decodeSwitchState f = true ↔ (f.b5.toNat / 16) % 2 = 1))

/-- 30_encoding.md R72: each status decode reads its own bits and ignores every other: the motion status all but
bits 7..5 of byte 5 (R79), the switch all but bit 4 of byte 5 (R81), the position all but bytes 1 and 2; R82: the
position is `(hi << 8) | lo` as a signed 16-bit value. -/
def Obligations.StatusDecodesIgnoreOtherBytes : Prop :=
  (∀ f g : Buf, f.b5.toNat / 32 = g.b5.toNat / 32 → decodeMotionStatus f = decodeMotionStatus g) ∧
  (∀ f g : Buf, f.b5.getLsbD 4 = g.b5.getLsbD 4 → decodeSwitchState f = decodeSwitchState g) ∧
  (∀ f g : Buf, f.b1 = g.b1 → f.b2 = g.b2 → decodeActualPosition f = decodeActualPosition g) ∧
  (∀ f : Buf, decodeActualPosition f =
    ((f.b1.toNat * 256 + f.b2.toNat : Nat) : Int) - (if 128 ≤ f.b1.toNat then 65536 else 0))

/-- R80: the number and the name of each motion status, one to one. -/
def Obligations.MotionStatusNames : Prop :=
  motionState 0 = .idle ∧ motionState 1 = .acceleratingPositive ∧ motionState 2 = .constantVelocityPositive ∧
  motionState 3 = .deceleratingPositive ∧ motionState 4 = .stalled ∧ motionState 5 = .acceleratingNegative ∧
  motionState 6 = .constantVelocityNegative ∧ motionState 7 = .deceleratingNegative ∧
  (∀ v w : BitVec 3, motionState v = motionState w → v = w)

/-- R83, R84: bit i of `otpBits(a)` is bit i+1 of a, and it is the last byte of the burn frame. -/
def Obligations.BurnFrameCarriesTheOtpBits : Prop :=
  (∀ (a : Byte) (i : Nat), i < 4 → (otpBits a).getLsbD i = a.getLsbD (i + 1)) ∧
  (∀ a : Byte, ∃ f4 : Byte, encodeBurnAddress a = [0x90, 0xFF, 0xFF, 0x02, f4] ∧
    f4.toNat = (otpBits a).toNat ∧ f4.toNat = a.toNat / 2 % 16)

/-- 30_encoding.md R65, R69: the codec's frames are the frame words of R69, each of the length R66 gives its
opcode. -/
def Obligations.CodecFramesAreTheFrameWords : Prop :=
  (∀ a b c d : Nibble, encodeFrame (.frameSetMotorParam a b c d) = some (encodeSetMotorParam a b c d)) ∧
  (∀ t : Half, encodeFrame (.frameSetPosition t) = some (encodeSetPosition t)) ∧
  (∀ a : Byte, encodeFrame (.frameBurnAddress (otpBits a)) = some (encodeBurnAddress a)) ∧
  encodeFrame .frameHardStop = some (encodeSimpleCommand 0x85) ∧
  encodeFrame .frameSoftStop = some (encodeSimpleCommand 0x8F) ∧
  encodeFrame .frameResetPosition = some (encodeSimpleCommand 0x86) ∧
  encodeFrame .frameRunInit = some (encodeSimpleCommand 0x88) ∧
  encodeFrame .frameGetFullStatus1 = some (encodeSimpleCommand 0x81) ∧
  encodeFrame .frameGetFullStatus2 = some (encodeSimpleCommand 0xFC) ∧
  (∀ i bytes, encodeFrame i = some bytes → bytes.head?.bind frameLength = some bytes.length)

/-- 60_exceptions.md R122, 10_state.md R30: the number of each completion code and of each phase. -/
def Obligations.CompletionCodesAndPhaseNumbers : Prop :=
  (Status.ok.code = 0 ∧ Status.rangeError.code = 1 ∧ Status.busError.code = 2 ∧ Status.notIncreasing.code = 3 ∧
    Status.outOfRange.code = 4 ∧ Status.bitCannotBeCleared.code = 5 ∧ Status.notConfirmed.code = 6 ∧
    Status.illegalCommand.code = 7) ∧
  (Phase.idle.code = 0 ∧ Phase.wait.code = 1 ∧ Phase.done.code = 2)

/-! ## Configuration commands -/

/-- 42_config.md R100: SET_IRUN, every operand. -/
def Obligations.SetIrunWritesOrRejects : Prop :=
  (∀ w : HostWord, w.extractLsb' 32 8 = 0x01 → decodeWord w = some (.setIrun (w.extractLsb' 0 8))) ∧
  ∀ (v : Byte) (s : State), ∃ t, exec (.setIrun v) s = .next t ∧
    (15 < v.toNat → Completed [] ⟨.rangeError, 0, false⟩ s t) ∧
    (v.toNat ≤ 15 → ∃ x : Nibble, x.toNat = v.toNat ∧ Completed [] ⟨.ok, 0, false⟩ { s with irun := x } t)

/-- R101: SET_IHOLD, every operand. -/
def Obligations.SetIholdWritesOrRejects : Prop :=
  (∀ w : HostWord, w.extractLsb' 32 8 = 0x02 → decodeWord w = some (.setIhold (w.extractLsb' 0 8))) ∧
  ∀ (v : Byte) (s : State), ∃ t, exec (.setIhold v) s = .next t ∧
    (15 < v.toNat → Completed [] ⟨.rangeError, 0, false⟩ s t) ∧
    (v.toNat ≤ 15 → ∃ x : Nibble, x.toNat = v.toNat ∧ Completed [] ⟨.ok, 0, false⟩ { s with ihold := x } t)

/-- R102: SET_VMAX, every operand. -/
def Obligations.SetVmaxWritesOrRejects : Prop :=
  (∀ w : HostWord, w.extractLsb' 32 8 = 0x03 → decodeWord w = some (.setVmax (w.extractLsb' 0 8))) ∧
  ∀ (v : Byte) (s : State), ∃ t, exec (.setVmax v) s = .next t ∧
    (15 < v.toNat → Completed [] ⟨.rangeError, 0, false⟩ s t) ∧
    (v.toNat ≤ 15 → ∃ x : Nibble, x.toNat = v.toNat ∧ Completed [] ⟨.ok, 0, false⟩ { s with vmax := x } t)

/-- R103: SET_VMIN, every operand. -/
def Obligations.SetVminWritesOrRejects : Prop :=
  (∀ w : HostWord, w.extractLsb' 32 8 = 0x04 → decodeWord w = some (.setVmin (w.extractLsb' 0 8))) ∧
  ∀ (v : Byte) (s : State), ∃ t, exec (.setVmin v) s = .next t ∧
    (15 < v.toNat → Completed [] ⟨.rangeError, 0, false⟩ s t) ∧
    (v.toNat ≤ 15 → ∃ x : Nibble, x.toNat = v.toNat ∧ Completed [] ⟨.ok, 0, false⟩ { s with vmin := x } t)

/-- R104: SET_MOTOR_PARAM sends the four registers as they stand, and changes none of them, whatever the answer. -/
def Obligations.SetMotorParamSendsTheRegisters : Prop :=
  (∀ w : HostWord, w.extractLsb' 32 8 = 0x05 → decodeWord w = some .setMotorParam) ∧
  (∀ s : State, ∃ t, exec .setMotorParam s = .next t ∧ ∃ f3 f4 : Byte,
    f3.toNat = s.irun.toNat * 16 + s.ihold.toNat ∧ f4.toNat = s.vmax.toNat * 16 + s.vmin.toNat ∧
    SendIssued [] 0 [0x89, 0xFF, 0xFF, f3, f4, 0x00, 0x00, 0x00] s t) ∧
  OneStepCompletes .setMotorParam false

/-- R105: SET_MOTOR_PARAM4: all four values checked before any is written; then all four written and the frame
sent from the new values; no completion undoes the write. -/
def Obligations.SetMotorParam4ChecksAllThenWritesAll : Prop :=
  (∀ w : HostWord, w.extractLsb' 32 8 = 0x06 → decodeWord w = some (.setMotorParam4
    (w.extractLsb' 24 8) (w.extractLsb' 16 8) (w.extractLsb' 8 8) (w.extractLsb' 0 8))) ∧
  (∀ (a b c d : Byte) (s : State), ∃ t, exec (.setMotorParam4 a b c d) s = .next t ∧
    (15 < a.toNat ∨ 15 < b.toNat ∨ 15 < c.toNat ∨ 15 < d.toNat →
      Completed [] ⟨.rangeError, 0, false⟩ s t) ∧
    (a.toNat ≤ 15 → b.toNat ≤ 15 → c.toNat ≤ 15 → d.toNat ≤ 15 →
      ∃ (x y z v : Nibble) (f3 f4 : Byte),
        x.toNat = a.toNat ∧ y.toNat = b.toNat ∧ z.toNat = c.toNat ∧ v.toNat = d.toNat ∧
        f3.toNat = a.toNat * 16 + b.toNat ∧ f4.toNat = c.toNat * 16 + d.toNat ∧
        SendIssued [] 0 [0x89, 0xFF, 0xFF, f3, f4, 0x00, 0x00, 0x00]
          { s with irun := x, ihold := y, vmax := z, vmin := v } t)) ∧
  ∀ a b c d : Byte, OneStepCompletes (.setMotorParam4 a b c d) false

/-! ## Motion and single-opcode commands -/

/-- 43_motion.md R106 to R111: HARD_STOP, SOFT_STOP, RESET_POSITION, RUN_INIT, GET_FULL_STATUS1,
GET_FULL_STATUS2: the word, the one byte sent as transaction 0, the completion; no other register changes. -/
def Obligations.SingleOpcodeCommandsSendOneByte : Prop :=
  ∀ (op opcode : Byte) (i : Instr),
    (op, opcode, i) ∈ [(0x07, 0x85, .hardStop), (0x08, 0x8F, .softStop), (0x09, 0x86, .resetPosition),
      (0x0A, 0x88, .runInit), (0x0B, 0x81, .getFullStatus1), (0x0C, 0xFC, Instr.getFullStatus2)] →
    (∀ w : HostWord, w.extractLsb' 32 8 = op → decodeWord w = some i) ∧
    (∀ s : State, ∃ t, exec i s = .next t ∧ SendIssued [] 0 [opcode] s t) ∧
    OneStepCompletes i false

/-- R112: SET_POSITION, every target, sent big-endian. -/
def Obligations.SetPositionSendsTheTarget : Prop :=
  (∀ w : HostWord, w.extractLsb' 32 8 = 0x0D → decodeWord w = some (.setPosition (w.extractLsb' 0 16))) ∧
  (∀ (target : Half) (s : State), ∃ t, exec (.setPosition target) s = .next t ∧ ∃ hi lo : Byte,
    target.toNat = hi.toNat * 256 + lo.toNat ∧ SendIssued [] 0 [0x8B, 0xFF, 0xFF, hi, lo] s t) ∧
  ∀ target : Half, OneStepCompletes (.setPosition target) false

/-- R113: DRIVE's three transactions: the status request, the RECV, the target `p + S16` wrapped mod 2^16 with
`p` the position just read; an error at any of them ends it. -/
def Obligations.DriveSendsTheWrappedSum : Prop :=
  (∀ w : HostWord, w.extractLsb' 32 8 = 0x0E → decodeWord w = some (.drive (w.extractLsb' 0 16))) ∧
  (∀ (r : Half) (s : State), ∃ t, exec (.drive r) s = .next t ∧ SendIssued [] 0 [0xFC] s t) ∧
  ∀ (r : Half) (s : State) (d : BusDraw), s.command = some (.drive r) →
    (d.fails = true → ∃ t, eventBusRsp d s = .next t ∧ Completed [.answer .err] ⟨.busError, 0, false⟩ s t) ∧
    (d.fails = false → s.seq = 0 → s.reqKind = .send →
      ∃ t, eventBusRsp d s = .next t ∧ RecvIssued [.answer .ok] 1 s t) ∧
    (d.fails = false → s.seq = 1 → s.reqKind = .recv → d.bytes.length ≠ 8 →
      ∃ t, eventBusRsp d s = .next t ∧ Completed [.answer (.data d.bytes)] ⟨.busError, 0, false⟩ s t) ∧
    (∀ b : Buf, d.fails = false → s.seq = 1 → s.reqKind = .recv → d.bytes = b.toList →
      ∃ t, eventBusRsp d s = .next t ∧ ∃ hi lo : Byte,
        (hi.toNat * 256 + lo.toNat : Int) = (decodeActualPosition b + r.toInt) % 65536 ∧
        SendIssued [.answer (.data d.bytes)] 2 [0x8B, 0xFF, 0xFF, hi, lo] { s with rxbuf := b } t) ∧
    (d.fails = false → s.seq = 2 → s.reqKind = .send →
      ∃ t, eventBusRsp d s = .next t ∧ Completed [.answer .ok] ⟨.ok, 0, false⟩ s t)

/-- R113, R91, R99: a whole run of DRIVE, from the word to the response, when the bus answers all three
transactions: five steps, the records in order, the target `(p + S16) mod 2^16`; R99's conditions hold
of this one-word program. The model's choices: the answers are a list of draws (log 4), no delay of an agent is a
step of its own (log 6), and `State.ended` counts over all words accepted since power-on, so it also asks that no
earlier command of `s` was left without its response (log 17). -/
def Obligations.DriveRunIssuesReadThenWrappedTarget : Prop :=
  ∀ (s : State) (w : HostWord) (a0 a1 a2 : BusDraw) (rest : List BusDraw) (b : Buf),
    s.otherMaster = false → s.resetLine = [] → s.phase = .idle → s.frameSlot = none →
    s.hostWords = [w] → w.extractLsb' 32 8 = 0x0E →
    s.busAnswers = a0 :: a1 :: a2 :: rest →
    a0.fails = false → a1.fails = false → a2.fails = false → a1.bytes = b.toList →
    ∃ (t : State) (hi lo : Byte), core.run 5 s = .next t ∧
      t.phase = .idle ∧ t.hostWords = [] ∧ t.accepted = s.accepted ++ [w] ∧
      (t.ended = true ↔ s.hostOut.length = s.accepted.length) ∧
      hi.toNat * 256 + lo.toNat = (b.b1.toNat * 256 + b.b2.toNat + (w.extractLsb' 0 16).toNat) % 65536 ∧
      t.hostOut = s.hostOut ++ [⟨.ok, 0, false⟩] ∧ t.busAnswers = rest ∧
      t.irun = s.irun ∧ t.ihold = s.ihold ∧ t.vmax = s.vmax ∧ t.vmin = s.vmin ∧ t.devAddr = s.devAddr ∧
      t.history = s.history ++
        [.issue (.send s.devAddr none [0xFC]), .answer .ok,
         .issue (.recv s.devAddr none 8), .answer (.data b.toList),
         .issue (.send s.devAddr none [0x8B, 0xFF, 0xFF, hi, lo]), .answer .ok,
         .complete ⟨.ok, 0, false⟩, .take]

/-! ## Status queries -/

/-- 44_status.md R114: GET_MOTION_STATUS returns bits 7..5 of byte 5. -/
def Obligations.GetMotionStatusReturnsTheField : Prop :=
  TwoStepQuery 0x0F 0x81 .getMotionStatus fun b => BitVec.ofNat 16 (b.b5.toNat / 32)

/-- R115: GET_SWITCH returns bit 4 of byte 5 as 0 or 1. -/
def Obligations.GetSwitchReturnsTheBit : Prop :=
  TwoStepQuery 0x10 0x81 .getSwitch fun b => if b.b5.getLsbD 4 then 1 else 0

/-- R116: GET_ACTUAL_POSITION returns bytes 1 and 2, big-endian. -/
def Obligations.GetActualPositionReturnsTheBytes : Prop :=
  TwoStepQuery 0x11 0xFC .getActualPosition fun b => BitVec.ofNat 16 (b.b1.toNat * 256 + b.b2.toNat)

/-! ## Address burn -/

/-- 45_address_burn.md R117, R118, R119, R121: the checks in their order, each with its code and nothing else
changed; a confirmed valid address is sent, its bits 4..1; success reports the replug, and DEV_ADDR keeps its value. -/
def Obligations.BurnChecksInOrderThenSends : Prop :=
  (∀ w : HostWord, w.extractLsb' 32 8 = 0x12 →
    decodeWord w = some (.burnNewAddress (w.extractLsb' 0 8) (w.getLsbD 8))) ∧
  (∀ (n : Byte) (conf : Bool) (s : State), ∃ t, exec (.burnNewAddress n conf) s = .next t ∧
    (n.toNat ≤ s.devAddr.toNat → Completed [] ⟨.notIncreasing, 0, false⟩ s t) ∧
    (s.devAddr.toNat < n.toNat → 0x7F < n.toNat → Completed [] ⟨.outOfRange, 0, false⟩ s t) ∧
    (s.devAddr.toNat < n.toNat → n.toNat ≤ 0x7F →
      (∃ b, 1 ≤ b ∧ b ≤ 4 ∧ s.devAddr.getLsbD b = true ∧ n.getLsbD b = false) →
      Completed [] ⟨.bitCannotBeCleared, 0, false⟩ s t) ∧
    (s.devAddr.toNat < n.toNat → n.toNat ≤ 0x7F →
      (∀ b, 1 ≤ b → b ≤ 4 → s.devAddr.getLsbD b = true → n.getLsbD b = true) →
      (conf = false → Completed [] ⟨.notConfirmed, 0, false⟩ s t) ∧
      (conf = true → ∃ f4 : Byte, f4.toNat = n.toNat / 2 % 16 ∧
        SendIssued [] 0 [0x90, 0xFF, 0xFF, 0x02, f4] s t))) ∧
  ∀ (n : Byte) (conf : Bool), OneStepCompletes (.burnNewAddress n conf) true

/-- R120: the jumper bit: an odd address is decremented before it is encoded, which never changes the frame; an
odd address one above DEV_ADDR becomes DEV_ADDR and is still sent; so is an increase in bits 6..5 alone. -/
def Obligations.OddBurnAddressIsSentAsTheEvenOneBelow : Prop :=
  (∀ n : Byte, (dropJumper n).toNat = n.toNat - n.toNat % 2 ∧
    encodeBurnAddress (dropJumper n) = encodeBurnAddress n) ∧
  (∀ (n : Byte) (s : State), n.toNat = s.devAddr.toNat + 1 → n.toNat % 2 = 1 → n.toNat ≤ 0x7F →
    (dropJumper n).toNat = s.devAddr.toNat ∧
    ∃ t, exec (.burnNewAddress n true) s = .next t ∧
      SendIssued [] 0 (encodeBurnAddress (s.devAddr.setWidth 8)) s t) ∧
  (∀ (n : Byte) (s : State), s.devAddr.toNat < n.toNat → n.toNat ≤ 0x7F → n.toNat % 32 = s.devAddr.toNat % 32 →
    ∃ t, exec (.burnNewAddress n true) s = .next t ∧
      SendIssued [] 0 (encodeBurnAddress (s.devAddr.setWidth 8)) s t)

/-- R136, R117, R118: in every state of a run, a burn frame on the bus belongs to a BURN_NEW_ADDRESS whose CONF
bit was given and whose address passed every check. -/
def Obligations.NoBurnFrameWithoutConfirmation : Prop :=
  ∀ s : State, Inv s → s.phase = .wait → s.reqKind = .send → s.sent.head? = some 0x90 →
    s.cmdOp = 0x12 ∧ s.cmdArg.getLsbD 8 = true ∧
    s.devAddr.toNat < (s.cmdArg.extractLsb' 0 8).toNat ∧ (s.cmdArg.extractLsb' 0 8).toNat ≤ 0x7F ∧
    (∀ b, 1 ≤ b → b ≤ 4 → s.devAddr.getLsbD b = true → s.cmdArg.getLsbD b = true)

/-! ## The frames -/

/-- 30_encoding.md R65, 41_sequencer.md R89: each command frame is issued on the bus as one SEND of its bytes, at
the script step SEQ stands at. That a frame runs by itself is the model's convention (log 9). -/
def Obligations.FramesAreIssuedOnTheBus : Prop :=
  (∀ (a b c d : Nibble) (s : State), ∃ t, exec (.frameSetMotorParam a b c d) s = .next t ∧ ∃ f3 f4 : Byte,
    f3.toNat = a.toNat * 16 + b.toNat ∧ f4.toNat = c.toNat * 16 + d.toNat ∧
    SendIssued [] s.seq [0x89, 0xFF, 0xFF, f3, f4, 0x00, 0x00, 0x00] s t) ∧
  (∀ (target : Half) (s : State), ∃ t, exec (.frameSetPosition target) s = .next t ∧ ∃ hi lo : Byte,
    target.toNat = hi.toNat * 256 + lo.toNat ∧ SendIssued [] s.seq [0x8B, 0xFF, 0xFF, hi, lo] s t) ∧
  (∀ (bits : Nibble) (s : State), ∃ t, exec (.frameBurnAddress bits) s = .next t ∧ ∃ f4 : Byte,
    f4.toNat = bits.toNat ∧ SendIssued [] s.seq [0x90, 0xFF, 0xFF, 0x02, f4] s t) ∧
  (∀ s : State, ∃ t, exec .frameHardStop s = .next t ∧ SendIssued [] s.seq [0x85] s t) ∧
  (∀ s : State, ∃ t, exec .frameSoftStop s = .next t ∧ SendIssued [] s.seq [0x8F] s t) ∧
  (∀ s : State, ∃ t, exec .frameResetPosition s = .next t ∧ SendIssued [] s.seq [0x86] s t) ∧
  (∀ s : State, ∃ t, exec .frameRunInit s = .next t ∧ SendIssued [] s.seq [0x88] s t) ∧
  (∀ s : State, ∃ t, exec .frameGetFullStatus1 s = .next t ∧ SendIssued [] s.seq [0x81] s t) ∧
  (∀ s : State, ∃ t, exec .frameGetFullStatus2 s = .next t ∧ SendIssued [] s.seq [0xFC] s t)

/-! ## Whole-machine rules -/

/-- 41_sequencer.md R90, R91: an answer that is a success issues the next step of the command's script, its bytes
computed from the state the answer left, or completes the command when there is none; never anything else. -/
def Obligations.GoodAnswerRunsTheNextScriptStep : Prop :=
  ∀ (s : State) (d : BusDraw) (i : Instr), s.command = some i → script i s ≠ [] → d.fails = false →
    (s.reqKind = .recv → d.bytes.length = 8) →
    ∃ s' t, eventBusRsp d s = .next t ∧
      s' = (if s.reqKind = .recv then State.receive d.bytes s else s) ∧
      (∀ r, (script i s')[s.seq.toNat + 1]? = some r →
        Issued [.answer (d.answer s.reqKind)] (BitVec.ofNat 2 (s.seq.toNat + 1)) r s' t) ∧
      ((script i s')[s.seq.toNat + 1]? = none →
        ∃ data replug, Completed [.answer (d.answer s.reqKind)] ⟨.ok, data, replug⟩ s' t)

/-- 60_exceptions.md R124, 20_memory.md R45: a failed transaction, or a RECV answer that is not 8 bytes long, ends
the command with BUS_ERROR at once, in every state; nothing else changes. -/
def Obligations.BusErrorEndsTheCommand : Prop :=
  ∀ (s : State) (d : BusDraw) (ds : List BusDraw),
    s.quiet → s.phase = .wait → s.busAnswers = d :: ds →
    (d.fails = true ∨ (s.reqKind = .recv ∧ d.bytes.length ≠ 8)) →
    ∃ t, step s = .next t ∧ t.rspStatus.code = 2 ∧
      Completed [.answer (d.answer s.reqKind)] ⟨.busError, 0, false⟩ { s.ticked with busAnswers := ds } t

/-- R130: an error other than BUS_ERROR is raised by an accept, before any transaction: the step made one record,
the completion, and changed no configuration register and not DEV_ADDR. -/
def Obligations.OtherErrorsArePreIo : Prop :=
  ∀ s t : State, step s = .next t → t.phase = .done → t.rspStatus ≠ .ok → t.rspStatus ≠ .busError →
    s.phase = .idle ∧ t.history = s.history ++ [.complete ⟨t.rspStatus, 0, false⟩] ∧
    t.irun = s.irun ∧ t.ihold = s.ihold ∧ t.vmax = s.vmax ∧ t.vmin = s.vmin ∧ t.devAddr = s.devAddr

/-- 10_state.md R22 to R27, 70_reset_and_hazards.md R142: only a reset, the register's own setter in range, and
SET_MOTOR_PARAM4 change a configuration register. -/
def Obligations.OnlySettersAndResetChangeTheConfiguration : Prop :=
  ∀ s t : State, step s = .next t → (∀ d, s.resetLine.head? ≠ some (some d)) →
    (t.irun ≠ s.irun → ∃ w, s.hostWords.head? = some w ∧ s.phase = .idle ∧ t.accepted = s.accepted ++ [w] ∧
      ((∃ v : Byte, decodeWord w = some (.setIrun v) ∧ t.irun.toNat = v.toNat) ∨
        ∃ a b c d : Byte, decodeWord w = some (.setMotorParam4 a b c d) ∧ t.irun.toNat = a.toNat)) ∧
    (t.ihold ≠ s.ihold → ∃ w, s.hostWords.head? = some w ∧ s.phase = .idle ∧ t.accepted = s.accepted ++ [w] ∧
      ((∃ v : Byte, decodeWord w = some (.setIhold v) ∧ t.ihold.toNat = v.toNat) ∨
        ∃ a b c d : Byte, decodeWord w = some (.setMotorParam4 a b c d) ∧ t.ihold.toNat = b.toNat)) ∧
    (t.vmax ≠ s.vmax → ∃ w, s.hostWords.head? = some w ∧ s.phase = .idle ∧ t.accepted = s.accepted ++ [w] ∧
      ((∃ v : Byte, decodeWord w = some (.setVmax v) ∧ t.vmax.toNat = v.toNat) ∨
        ∃ a b c d : Byte, decodeWord w = some (.setMotorParam4 a b c d) ∧ t.vmax.toNat = c.toNat)) ∧
    (t.vmin ≠ s.vmin → ∃ w, s.hostWords.head? = some w ∧ s.phase = .idle ∧ t.accepted = s.accepted ++ [w] ∧
      ((∃ v : Byte, decodeWord w = some (.setVmin v) ∧ t.vmin.toNat = v.toNat) ∨
        ∃ a b c d : Byte, decodeWord w = some (.setMotorParam4 a b c d) ∧ t.vmin.toNat = d.toNat))

/-- R26, 45_address_burn.md R121: DEV_ADDR is written by E_RESET and by nothing else, no burn included. -/
def Obligations.OnlyResetWritesTheDeviceAddress : Prop :=
  ∀ s t : State, step s = .next t →
    t.devAddr = (match s.resetLine.head?.join with | some d => d | none => s.devAddr)

/-- 20_memory.md R42, 30_encoding.md R68: whatever the state, every transaction a step issues goes to the slave
DEV_ADDR, names no sub-register, and is a RECV of 8 bytes or a SEND of one of the nine frames. -/
def Obligations.EveryIssueIsOneOfTheNineFramesOrARecv : Prop :=
  ∀ s t : State, step s = .next t → ∃ recs, t.history = s.history ++ recs ∧
    ∀ q, .issue q ∈ recs →
      q = .recv s.devAddr none 8 ∨ ∃ bytes i, q = .send s.devAddr none bytes ∧ decodeFrame bytes = some i

/-- R54, 41_sequencer.md R86: what one step may record. A transaction is issued only from IDLE or right after
the answer to the one before it, so none is ever issued while another is outstanding. -/
def Obligations.OneTransactionInFlight : Prop :=
  ∀ s t : State, step s = .next t →
    t.history = s.history ∨
    (s.phase = .idle ∧ t.phase = .wait ∧ ∃ q, t.history = s.history ++ [.issue q]) ∨
    (s.phase = .idle ∧ t.phase = .done ∧ ∃ r, t.history = s.history ++ [.complete r]) ∨
    (s.phase = .wait ∧ t.phase = .wait ∧ ∃ a q, t.history = s.history ++ [.answer a, .issue q] ∧ a ≠ .err) ∨
    (s.phase = .wait ∧ t.phase = .done ∧ ∃ a r, t.history = s.history ++ [.answer a, .complete r]) ∨
    (s.phase = .done ∧ t.phase = .idle ∧ t.history = s.history ++ [.take])

/-! ## The invariant -/

/-- The invariant holds after reset. -/
def Obligations.InvariantHoldsAtReset : Prop := Inv State.reset

/-- Every step from a state with the invariant keeps it, from every such state and not only on runs from reset:
the outstanding request is its command's script step, the response is one its command may give, the history is
serial and made of legal records. -/
def Obligations.EveryStepKeepsTheInvariant : Prop :=
  ∀ s t : State, Inv s → step s = .next t → Inv t

/-- 10_state.md R39: under the invariant no step faults, and the only refusal is R145's. -/
def Obligations.NoStepStopsUnderTheInvariant : Prop :=
  ∀ s : State, Inv s → s.otherMaster = false → ∃ t, step s = .next t

/-! ## Runs -/

/-- The step lemma of the next statement: two states with one view, the first with the invariant, step to states
with one view, or stop alike. -/
def Obligations.StepsFromOneViewAgree : Prop :=
  ∀ s t : State, Inv s → s.view = t.view → viewOutcome (step s) = viewOutcome (step t)

/-- 30_encoding.md R61, 10_state.md R37, R39: two states with the same view (the same registers where they are
visible, host words that decode to the same commands) cannot be told apart by any run. So neither the ignored
operand bits nor the reset values of log 1 nor the free values of log 3 affect what a host or a bus sees. -/
def Obligations.HiddenStateAndIgnoredBitsAreUnobservable : Prop :=
  ∀ (n : Nat) (s t : State), Inv s → s.view = t.view →
    viewOutcome (core.run n s) = viewOutcome (core.run n t)

/-- 41_sequencer.md R97, R99, 00_scope.md R4: with every request answered (the premise R97 asks a claim to state),
no reset and no other master, every command, legal or not, is accepted, issues at most three transactions,
completes once and is taken once. The bound of five steps rests on the model's choices: the answers are a list of
draws (log 4), and no delay of the host or the bus agent is a step of its own (log 6). -/
def Obligations.EveryAnsweredCommandCompletesOnce : Prop :=
  ∀ (s : State) (w : HostWord) (ws : List HostWord),
    s.otherMaster = false → s.resetLine = [] → s.phase = .idle → s.frameSlot = none →
    s.hostWords = w :: ws → 3 ≤ s.busAnswers.length →
    ∃ n t recs, n ≤ 5 ∧ core.run n s = .next t ∧ t.phase = .idle ∧ t.hostWords = ws ∧ t.resetLine = [] ∧
      t.accepted = s.accepted ++ [w] ∧ t.hostOut = s.hostOut ++ [t.response] ∧ t.devAddr = s.devAddr ∧
      t.history = s.history ++ recs ∧ recs.countP Record.isIssue ≤ 3 ∧
      recs.countP Record.isComplete = 1 ∧ recs.countP Record.isTake = 1 ∧
      s.busAnswers.length ≤ t.busAnswers.length + 3

/-- R99: a program of n words, with at least 3n answers to come, ends: every word was accepted in the host's order,
n responses were taken, and PH = IDLE, which is R99 for the program `ws`. The model's choices: the bound of 5n
steps rests on the answers being a list of draws (log 4) and on the host offering and taking at once (log 6);
`State.ended` counts over all words accepted since power-on, so it also asks that no earlier command of `s` was
left without its response (log 17). -/
def Obligations.EveryAnsweredProgramEnds : Prop :=
  ∀ (ws : List HostWord) (s : State),
    s.otherMaster = false → s.resetLine = [] → s.phase = .idle → s.frameSlot = none →
    s.hostWords = ws → 3 * ws.length ≤ s.busAnswers.length →
    ∃ n t, n ≤ 5 * ws.length ∧ core.run n s = .next t ∧
      t.phase = .idle ∧ t.hostWords = [] ∧ (t.ended = true ↔ s.hostOut.length = s.accepted.length) ∧
      t.accepted = s.accepted ++ ws ∧ t.hostOut.length = s.hostOut.length + ws.length

/-- R99: in an ended run every accepted word completed exactly once and every response was taken, counted over all
words accepted since power-on (the model's reading, log 17). -/
def Obligations.EndedRunAnsweredEveryWord : Prop :=
  ∀ s : State, Inv s → s.ended = true →
    s.hostWords = [] ∧ s.phase = .idle ∧ s.hostOut.length = s.accepted.length ∧
    s.history.countP Record.isComplete = s.accepted.length ∧ s.history.countP Record.isTake = s.accepted.length

/-- R99, 70_reset_and_hazards.md R141: a run with an E_RESET in WAIT or DONE has not ended, and no later state of
it counts as ended. How the model reads R99's end over resets is log 17. -/
def Obligations.AbandonedCommandNeverEnds : Prop :=
  ∀ (s : State) (d : SlaveAddr), Inv s → s.otherMaster = false → s.phase ≠ .idle →
    s.resetLine.head? = some (some d) →
    ∃ t, step s = .next t ∧ t.phase = .idle ∧ t.history = s.history ∧ t.ended = false ∧
      ∀ n u, core.run n t = .next u → u.ended = false

/-! ## Encoding -/

/-- Every instruction, at every value of every operand, is what its own word or frame decodes to (R59 to R69). -/
def Obligations.DecodeOfEncodeIsTheInstruction : Prop :=
  ∀ i : Instr, decode (encode i) = some i

/-- The converse: a frame that decodes is exactly the frame of its instruction (R67: no reserved byte is dropped),
and a host word that decodes agrees with its instruction's word but for ignored operand bits (R61). -/
def Obligations.EncodeOfDecodeIsTheWord : Prop :=
  (∀ (bytes : List Byte) (i : Instr), decodeFrame bytes = some i → encodeFrame i = some bytes) ∧
  (∀ (w : HostWord) (i : Instr), decodeWord w = some i → ∃ v, encodeWord i = some v ∧ decodeWord v = some i ∧
    opOf v = opOf w ∧ v = (opOf w ++ (operandOf w &&& operandOf v) : HostWord))

/-- R63, R66, R67, R68: the decoder accepts exactly the well-formed packets. -/
def Obligations.DecodeAcceptsExactlyTheWellFormed : Prop :=
  ∀ p : Packet, (decode p).isSome = p.wellFormed

/-- opcode_table.json: a number of the table's width is decoded to an instruction of exactly the row whose match
and mask it meets. -/
def Obligations.DecoderAgreesWithTheOpcodeTable : Prop :=
  ∀ (w : Nat) (i : Instr), w < 2 ^ (tableRow i).width →
    ((w &&& (tableRow i).mask = (tableRow i).value) ↔
      ∃ j, decodeTableWord (tableRow i).width w = some j ∧ tableRow j = tableRow i)

/-- R66: a captured bus trace, the frames of any list of frame instructions one after the other, is cut back into
exactly those instructions. -/
def Obligations.BusTraceIsCutByFrameLength : Prop :=
  ∀ l : List (Instr × List Byte), (∀ p ∈ l, encodeFrame p.1 = some p.2) →
    cutTrace l.length (l.flatMap Prod.snd) = some (l.map Prod.fst)

/-- 95_test_vectors.md 2.1 to 2.5: words and frames written out from the encodings decode to what they stand for. -/
def Obligations.SampleWordsDecode : Prop :=
  decodeWord 0x010000000A = some (.setIrun 10) ∧
  decodeWord 0x060A030C02 = some (.setMotorParam4 10 3 12 2) ∧
  decodeWord 0x0700000001 = some .hardStop ∧
  decodeWord 0x0D0000FFFF = some (.setPosition (-1)) ∧
  decodeWord 0x0E0000F830 = some (.drive (-2000)) ∧
  decodeWord 0x1000000000 = some .getSwitch ∧
  decodeWord 0x12FFFFFE15 = some (.burnNewAddress 0x15 false) ∧
  decodeWord 0x1300000000 = none ∧
  decodeFrame [0x89, 0xFF, 0xFF, 0xA3, 0xC2, 0, 0, 0] = some (.frameSetMotorParam 10 3 12 2) ∧
  decodeFrame [0x8B, 0xFF, 0xFF, 0xFE, 0x0C] = some (.frameSetPosition (-500)) ∧
  decodeFrame [0x90, 0xFF, 0xFF, 0x02, 0x0A] = some (.frameBurnAddress 10) ∧
  decodeFrame [0xFC] = some .frameGetFullStatus2
end

