-- ==== Sys2Proof/Laws/Bits.lean ====
section
/-! SUPPORT. Bit fields as arithmetic on natural numbers. -/

namespace Sys2Proof

theorem toNat_append_add {n m : Nat} (x : BitVec n) (y : BitVec m) :
    (x ++ y).toNat = x.toNat * 2 ^ m + y.toNat := by
  rw [BitVec.toNat_append, ← Nat.shiftLeft_add_eq_or_of_lt y.isLt, Nat.shiftLeft_eq]

theorem toNat_extract {n : Nat} (x : BitVec n) (s l : Nat) :
    (x.extractLsb' s l).toNat = x.toNat / 2 ^ s % 2 ^ l := by
  rw [BitVec.extractLsb'_toNat, Nat.shiftRight_eq_div_pow]

/-- Two nibbles as a byte, the first the high one (20_memory.md R48). -/
def joinNibbles (hi lo : Nibble) : Byte := hi ++ lo

theorem toNat_joinNibbles (hi lo : Nibble) : (joinNibbles hi lo).toNat = hi.toNat * 16 + lo.toNat :=
  toNat_append_add hi lo

theorem toNat_joinBytes (hi lo : Byte) : (joinBytes hi lo).toNat = hi.toNat * 256 + lo.toNat :=
  toNat_append_add hi lo

theorem highNibble_joinNibbles (hi lo : Nibble) : highNibble (joinNibbles hi lo) = hi := by
  apply BitVec.eq_of_toNat_eq
  rw [highNibble, toNat_extract, toNat_joinNibbles]; omega

theorem lowNibble_joinNibbles (hi lo : Nibble) : lowNibble (joinNibbles hi lo) = lo := by
  apply BitVec.eq_of_toNat_eq
  rw [lowNibble, toNat_extract, toNat_joinNibbles]; omega

theorem joinNibbles_of_nibbles (b : Byte) : joinNibbles (highNibble b) (lowNibble b) = b := by
  apply BitVec.eq_of_toNat_eq
  rw [toNat_joinNibbles, highNibble, lowNibble, toNat_extract, toNat_extract]; omega

/-- The two bytes of a 16-bit pattern, most significant first. -/
theorem joinBytes_of_bytes (t : Half) : joinBytes (t.extractLsb' 8 8) (t.extractLsb' 0 8) = t := by
  apply BitVec.eq_of_toNat_eq
  rw [toNat_joinBytes, toNat_extract, toNat_extract]; omega

theorem highByte_joinBytes (hi lo : Byte) : (joinBytes hi lo).extractLsb' 8 8 = hi := by
  apply BitVec.eq_of_toNat_eq
  rw [toNat_extract, toNat_joinBytes]; omega

theorem lowByte_joinBytes (hi lo : Byte) : (joinBytes hi lo).extractLsb' 0 8 = lo := by
  apply BitVec.eq_of_toNat_eq
  rw [toNat_extract, toNat_joinBytes]; omega

/-- A 16-bit pattern is its two bytes, big-endian (20_memory.md R47). -/
theorem toNat_half_eq_bytes (t : Half) :
    t.toNat = (t.extractLsb' 8 8).toNat * 256 + (t.extractLsb' 0 8).toNat := by
  rw [toNat_extract, toNat_extract]; omega

end Sys2Proof
end

