-- ==== Sys2Proof/Laws/Decode.lean ====
section
/-! SUPPORT. The decoder and the encoder: words by OP and OPERAND, frames by their bytes. -/

namespace Sys2Proof

/-! ## Host command words -/

theorem toNat_wordOf (op : Byte) (arg : BitVec 32) : (wordOf op arg).toNat = op.toNat * 2 ^ 32 + arg.toNat :=
  toNat_append_add op arg

@[simp] theorem opOf_wordOf (op : Byte) (arg : BitVec 32) : opOf (wordOf op arg) = op := by
  apply BitVec.eq_of_toNat_eq
  rw [opOf, toNat_extract, toNat_wordOf]; omega

@[simp] theorem operandOf_wordOf (op : Byte) (arg : BitVec 32) : operandOf (wordOf op arg) = arg := by
  apply BitVec.eq_of_toNat_eq
  rw [operandOf, toNat_extract, toNat_wordOf]; omega

theorem wordOf_fields (w : HostWord) : wordOf (opOf w) (operandOf w) = w := by
  apply BitVec.eq_of_toNat_eq
  rw [toNat_wordOf, opOf, operandOf, toNat_extract, toNat_extract]; omega

@[simp] theorem decodeWord_wordOf (op : Byte) (arg : BitVec 32) :
    decodeWord (wordOf op arg) = decodeCommand op arg := by
  rw [decodeWord, opOf_wordOf, operandOf_wordOf]

/-- A word whose OP is known decodes as its OPERAND says. -/
theorem decodeWord_of_op {w : HostWord} {op : Byte} (h : w.extractLsb' 32 8 = op) :
    decodeWord w = decodeCommand op (w.extractLsb' 0 32) := by
  have h' : opOf w = op := h
  rw [decodeWord, h']
  rfl

theorem decode_encode_of_word {i : Instr} {w : HostWord} (h : encodeWord i = some w) :
    decode (encode i) = decodeWord w := by
  simp [encode, h, decode]

theorem decode_encode_of_frame {i : Instr} {bytes : List Byte} (h : encodeWord i = none)
    (hf : encodeFrame i = some bytes) : decode (encode i) = decodeFrame bytes := by
  simp [encode, h, hf, decode]

theorem fieldByte0_pad (v : Byte) : fieldByte0 (0#24 ++ v) = v := by
  apply BitVec.eq_of_toNat_eq
  rw [fieldByte0, toNat_extract, toNat_append_add, BitVec.toNat_ofNat]; omega

theorem fieldS16_pad (v : Half) : fieldS16 (0#16 ++ v) = v := by
  apply BitVec.eq_of_toNat_eq
  rw [fieldS16, toNat_extract, toNat_append_add, BitVec.toNat_ofNat]; omega

theorem fieldByte0_burn (c : Bool) (v : Byte) : fieldByte0 (0#23 ++ BitVec.ofBool c ++ v) = v := by
  apply BitVec.eq_of_toNat_eq
  rw [fieldByte0, toNat_extract, toNat_append_add, toNat_append_add, BitVec.toNat_ofNat]; omega

theorem fieldConf_burn (c : Bool) (v : Byte) : fieldConf (0#23 ++ BitVec.ofBool c ++ v) = c := by
  rw [fieldConf, ← BitVec.testBit_toNat, Nat.testBit_eq_decide_div_mod_eq, toNat_append_add, toNat_append_add,
    BitVec.toNat_ofNat, BitVec.toNat_ofBool]
  have := v.isLt
  cases c <;> simp <;> omega

theorem decodeCommand_pad8 (op v : Byte) (f : Byte → Instr)
    (h : ∀ arg, decodeCommand op arg = some (f (fieldByte0 arg))) :
    decodeCommand op (0#24 ++ v) = some (f v) := by
  rw [h, fieldByte0_pad]

/-! ## Frames -/

theorem bytes_frameSetMotorParam (a b c d : Nibble) :
    encodeFrame (.frameSetMotorParam a b c d) =
      some [0x89, 0xFF, 0xFF, joinNibbles a b, joinNibbles c d, 0x00, 0x00, 0x00] := by
  simp only [encodeFrame, bytesOfFrameWord, List.range, List.range.loop, List.map, Option.some.injEq, List.cons.injEq,
    ← BitVec.toNat_inj, toNat_extract, toNat_append_add, toNat_joinNibbles, BitVec.toNat_ofNat]
  simp; omega

theorem bytes_frameSetPosition (t : Half) :
    encodeFrame (.frameSetPosition t) = some [0x8B, 0xFF, 0xFF, t.extractLsb' 8 8, t.extractLsb' 0 8] := by
  simp only [encodeFrame, bytesOfFrameWord, List.range, List.range.loop, List.map, Option.some.injEq, List.cons.injEq,
    ← BitVec.toNat_inj, toNat_extract, toNat_append_add, BitVec.toNat_ofNat]
  simp; omega

theorem bytes_frameBurnAddress (n : Nibble) :
    encodeFrame (.frameBurnAddress n) = some [0x90, 0xFF, 0xFF, 0x02, joinNibbles 0 n] := by
  simp only [encodeFrame, bytesOfFrameWord, List.range, List.range.loop, List.map, Option.some.injEq, List.cons.injEq,
    ← BitVec.toNat_inj, toNat_extract, toNat_append_add, toNat_joinNibbles, BitVec.toNat_ofNat]
  simp; omega

/-- The frames of one byte, by their opcodes (R65). -/
theorem bytes_single :
    encodeFrame .frameHardStop = some [0x85] ∧ encodeFrame .frameSoftStop = some [0x8F] ∧
    encodeFrame .frameResetPosition = some [0x86] ∧ encodeFrame .frameRunInit = some [0x88] ∧
    encodeFrame .frameGetFullStatus1 = some [0x81] ∧ encodeFrame .frameGetFullStatus2 = some [0xFC] := by decide

/-- The frame in front is cut off, whatever stands after it (R66). -/
theorem decodeFramePrefix_append {i : Instr} {bytes : List Byte} (h : encodeFrame i = some bytes) (more : List Byte) :
    decodeFramePrefix (bytes ++ more) = some (i, more) := by
  cases i with
  | frameSetMotorParam a b c d =>
    rw [bytes_frameSetMotorParam] at h; cases h
    simp [decodeFramePrefix, highNibble_joinNibbles, lowNibble_joinNibbles]
  | frameSetPosition t =>
    rw [bytes_frameSetPosition] at h; cases h
    simp [decodeFramePrefix, joinBytes_of_bytes]
  | frameBurnAddress n =>
    rw [bytes_frameBurnAddress] at h; cases h
    simp [decodeFramePrefix, highNibble_joinNibbles, lowNibble_joinNibbles]
  | frameHardStop => cases h; rfl
  | frameSoftStop => cases h; rfl
  | frameResetPosition => cases h; rfl
  | frameRunInit => cases h; rfl
  | frameGetFullStatus1 => cases h; rfl
  | frameGetFullStatus2 => cases h; rfl
  | setIrun _ | setIhold _ | setVmax _ | setVmin _ | setMotorParam | setMotorParam4 _ _ _ _ | hardStop | softStop
  | resetPosition | runInit | getFullStatus1 | getFullStatus2 | setPosition _ | drive _ | getMotionStatus | getSwitch
  | getActualPosition | burnNewAddress _ _ => cases h

theorem decodeFrame_of_encodeFrame {i : Instr} {bytes : List Byte} (h : encodeFrame i = some bytes) :
    decodeFrame bytes = some i := by
  have := decodeFramePrefix_append h []
  rw [List.append_nil] at this
  simp [decodeFrame, this]

/-- What the frame decoder accepts, it can write again: no byte of a frame is dropped (R67, R68). -/
theorem decodeFramePrefix_eq_some {bytes more : List Byte} {i : Instr}
    (h : decodeFramePrefix bytes = some (i, more)) : ∃ b, encodeFrame i = some b ∧ bytes = b ++ more := by
  cases bytes with
  | nil => cases h
  | cons op rest =>
    have hop : op = BitVec.ofNat 8 op.toNat := by simp
    unfold decodeFramePrefix at h
    dsimp only at h
    split at h
    all_goals try (rename_i hv; rw [hv] at hop; subst hop)
    all_goals try (cases h; exact ⟨_, rfl, rfl⟩)
    · split at h
      · split at h
        · rename_i hc; obtain ⟨rfl, rfl, rfl, rfl, rfl⟩ := hc; cases h
          exact ⟨_, bytes_frameSetMotorParam _ _ _ _, by simp [joinNibbles_of_nibbles]⟩
        · cases h
      · cases h
    · split at h
      · split at h
        · rename_i hc; obtain ⟨rfl, rfl⟩ := hc; cases h
          exact ⟨_, bytes_frameSetPosition _, by simp [highByte_joinBytes, lowByte_joinBytes]⟩
        · cases h
      · cases h
    · split at h
      · split at h
        · rename_i hc; obtain ⟨rfl, rfl, rfl, hz⟩ := hc; cases h
          exact ⟨_, bytes_frameBurnAddress _, by rw [← hz, joinNibbles_of_nibbles]; rfl⟩
        · cases h
      · cases h
    · cases h

theorem encodeFrame_of_decodeFrame {bytes : List Byte} {i : Instr} (h : decodeFrame bytes = some i) :
    encodeFrame i = some bytes := by
  unfold decodeFrame at h
  split at h
  · rename_i hp
    cases h
    obtain ⟨b, hb, rfl⟩ := decodeFramePrefix_eq_some hp
    simpa using hb
  · cases h
  · cases h

/-- The row of the command a legal OP selects (R62). -/
theorem tableRow_of_decodeCommand {op : Byte} {arg : BitVec 32} {i : Instr} (h : decodeCommand op arg = some i) :
    (tableRow i).width = 40 ∧ (tableRow i).value = op.toNat * 2 ^ 32 ∧ (tableRow i).mask = 0xFF00000000 ∧
      i.isFrame = false := by
  unfold decodeCommand at h
  split at h
  all_goals first
    | cases h
      done
    | rename_i hv
      cases h
      rw [hv]
      exact ⟨rfl, rfl, rfl, rfl⟩

/-- R62, R63: the legal OPs are 0x01 to 0x12. -/
theorem decodeWord_eq_none_iff (w : HostWord) :
    decodeWord w = none ↔ ¬(1 ≤ (opOf w).toNat ∧ (opOf w).toNat ≤ 0x12) := by
  rw [decodeWord]
  unfold decodeCommand
  generalize (opOf w).toNat = n
  constructor
  · rintro h ⟨h1, h2⟩
    interval_cases n <;> cases h
  · intro h
    split
    all_goals first
      | rfl
      | exact absurd (by decide) h

end Sys2Proof
end

