-- ==== Sys2Proof/Laws/Codec.lean ====
section
/-! SUPPORT. The codec's frames as byte lists and its decodes as arithmetic. -/

namespace Sys2Proof.Machine

theorem nibbles_or (hi lo : Nibble) : (hi.setWidth 8 <<< 4) ||| lo.setWidth 8 = joinNibbles hi lo := by
  apply BitVec.eq_of_toNat_eq
  have h : (hi.setWidth 8 <<< 4 : Byte).toNat = hi.toNat <<< 4 := by
    simp [BitVec.toNat_shiftLeft, Nat.shiftLeft_eq]; omega
  have hl : (lo.setWidth 8 : Byte).toNat = lo.toNat := by simp; omega
  rw [BitVec.toNat_or, h, hl, toNat_joinNibbles, ← Nat.shiftLeft_add_eq_or_of_lt lo.isLt, Nat.shiftLeft_eq]

theorem encodeSetMotorParam_eq (a b c d : Nibble) :
    encodeSetMotorParam a b c d = [0x89, 0xFF, 0xFF, joinNibbles a b, joinNibbles c d, 0x00, 0x00, 0x00] := by
  simp only [encodeSetMotorParam, nibbles_or]

theorem encodeSetPosition_eq (t : Half) :
    encodeSetPosition t = [0x8B, 0xFF, 0xFF, t.extractLsb' 8 8, t.extractLsb' 0 8] := rfl

/-- `(hi << 8) | lo` is the pattern with these two bytes (R82, 20_memory.md R47). -/
theorem bytes_or (hi lo : Byte) : (hi.setWidth 16 <<< 8) ||| lo.setWidth 16 = joinBytes hi lo := by
  apply BitVec.eq_of_toNat_eq
  have h : (hi.setWidth 16 <<< 8 : Half).toNat = hi.toNat <<< 8 := by
    simp [BitVec.toNat_shiftLeft, Nat.shiftLeft_eq]; omega
  have hl : (lo.setWidth 16 : Half).toNat = lo.toNat := by simp; omega
  rw [BitVec.toNat_or, h, hl, toNat_joinBytes, ← Nat.shiftLeft_add_eq_or_of_lt lo.isLt, Nat.shiftLeft_eq]

theorem decodeActualPosition_eq (f : Buf) : decodeActualPosition f = (joinBytes f.b1 f.b2).toInt := by
  simp only [decodeActualPosition, s16, Buf.byte, bytes_or]

theorem decodeMotionStatus_eq (f : Buf) : decodeMotionStatus f = f.b5.extractLsb' 5 3 := by
  simp only [decodeMotionStatus, Buf.byte]
  generalize f.b5 = b
  revert b
  decide

theorem decodeSwitchState_eq (f : Buf) : decodeSwitchState f = f.b5.getLsbD 4 := by
  simp only [decodeSwitchState, Buf.byte]
  generalize f.b5 = b
  revert b
  decide

theorem otpBits_eq (a : Byte) : otpBits a = a.extractLsb' 1 4 := by
  revert a
  decide

theorem toNat_otpBits (a : Byte) : (otpBits a).toNat = a.toNat / 2 % 16 := by
  rw [otpBits_eq, toNat_extract]; omega

theorem encodeBurnAddress_eq (a : Byte) : encodeBurnAddress a = [0x90, 0xFF, 0xFF, 0x02, joinNibbles 0 (otpBits a)] := by
  have : (otpBits a).setWidth 8 = joinNibbles 0 (otpBits a) := by
    apply BitVec.eq_of_toNat_eq
    rw [toNat_joinNibbles]; simp; omega
  simp only [encodeBurnAddress, this]

/-- Wrapping addition of patterns is the truncated sum of the signed values (R113). -/
theorem trunc16_add (x y : Half) : trunc16 (x.toInt + y.toInt) = x + y := by
  rw [trunc16, BitVec.ofInt_add, BitVec.ofInt_toInt, BitVec.ofInt_toInt]

theorem trunc16_toInt (x : Half) : trunc16 x.toInt = x := BitVec.ofInt_toInt

/-- R120: the decrement clears bit 0 and no other, so the OTP bits stay. -/
theorem toNat_dropJumper (n : Byte) : (dropJumper n).toNat = n.toNat - n.toNat % 2 := by
  revert n
  decide

theorem otpBits_dropJumper (n : Byte) : otpBits (dropJumper n) = otpBits n := by
  apply BitVec.eq_of_toNat_eq
  rw [toNat_otpBits, toNat_otpBits, toNat_dropJumper]; omega

theorem encodeBurnAddress_dropJumper (n : Byte) : encodeBurnAddress (dropJumper n) = encodeBurnAddress n := by
  simp only [encodeBurnAddress, otpBits_dropJumper]

/-- R119: the check of step 3, bit by bit. -/
theorem otpBits_cleared_iff (cur n : Byte) :
    otpBits cur &&& ~~~otpBits n ≠ 0 ↔ ∃ b, 1 ≤ b ∧ b ≤ 4 ∧ cur.getLsbD b = true ∧ n.getLsbD b = false := by
  rw [otpBits_eq, otpBits_eq, ne_eq, BitVec.eq_of_getLsbD_eq_iff]
  simp only [not_forall]
  constructor
  · rintro ⟨i, hi, h⟩
    simp [hi] at h
    exact ⟨1 + i, by omega, by omega, h.1, h.2⟩
  · rintro ⟨b, h1, h4, hc, hn⟩
    refine ⟨b - 1, by omega, ?_⟩
    have : 1 + (b - 1) = b := by omega
    have h3 : b - 1 < 4 := by omega
    simp [this, hc, hn, h3]

/-- `trunc16(z)` is `z mod 2^16` (00_scope.md R12). -/
theorem toNat_trunc16 (z : Int) : ((trunc16 z).toNat : Int) = z % 65536 := by
  rw [trunc16, BitVec.toNat_ofInt]; omega

/-- A setter's value in range is stored unchanged (42_config.md R100). -/
theorem toNat_lowFour {v : Byte} (h : v.toNat ≤ 15) : (lowFour v).toNat = v.toNat := by
  rw [lowFour, toNat_extract]; omega

theorem toNat_devAddrByte (s : State) : s.devAddrByte.toNat = s.devAddr.toNat := by
  simp [State.devAddrByte]; omega

theorem getLsbD_devAddrByte (s : State) (b : Nat) : s.devAddrByte.getLsbD b = s.devAddr.getLsbD b := by
  simp [State.devAddrByte]
  intro h
  have := BitVec.lt_of_getLsbD h
  omega

/-- When the checks of R117 and the confirmation let a burn through. -/
theorem burnError_eq_none_iff (s : State) (n : Byte) (conf : Bool) :
    burnError s.devAddrByte n conf = none ↔
      s.devAddr.toNat < n.toNat ∧ n.toNat ≤ 0x7F ∧
        (∀ b, 1 ≤ b → b ≤ 4 → s.devAddr.getLsbD b = true → n.getLsbD b = true) ∧ conf = true := by
  unfold burnError
  rw [toNat_devAddrByte]
  have key := otpBits_cleared_iff s.devAddrByte n
  simp only [getLsbD_devAddrByte] at key
  split_ifs with h1 h2 h3 h4
  · simp; omega
  · simp; omega
  · obtain ⟨b, hb1, hb4, hc, hn⟩ := key.1 h3
    simp
    intro _ _ hall
    have := hall b hb1 hb4 hc
    rw [hn] at this
    cases this
  · simp [h4]
  · simp only [true_iff]
    refine ⟨by omega, by omega, fun b hb1 hb4 hc => ?_, by simpa using h4⟩
    by_contra hn
    exact h3 (key.2 ⟨b, hb1, hb4, hc, by simpa using hn⟩)

end Sys2Proof.Machine
end

