-- ==== Sys2Proof/Laws/State.lean ====
section
/-! SUPPORT. What each update of State makes of each field: one lemma per field per update, true by rfl. -/

namespace Sys2Proof.Machine

@[simp] theorem raise_eq (e : Status) (s : State) : s.raise e = s.complete (errorResponse e) := rfl
@[simp] theorem finish_eq (d : Half) (p : Bool) (s : State) : s.finish d p = s.complete (okResponse d p) := rfl
@[simp] theorem errorResponse_eq (e : Status) : errorResponse e = ⟨e, 0, false⟩ := rfl
@[simp] theorem okResponse_eq (d : Half) (p : Bool) : okResponse d p = ⟨.ok, d, p⟩ := rfl

/-! ### `State.issue` -/

@[simp] theorem issue_irun (k : BitVec 2) (r : Req) (s : State) : (State.issue k r s).irun = s.irun := rfl
@[simp] theorem issue_ihold (k : BitVec 2) (r : Req) (s : State) : (State.issue k r s).ihold = s.ihold := rfl
@[simp] theorem issue_vmax (k : BitVec 2) (r : Req) (s : State) : (State.issue k r s).vmax = s.vmax := rfl
@[simp] theorem issue_vmin (k : BitVec 2) (r : Req) (s : State) : (State.issue k r s).vmin = s.vmin := rfl
@[simp] theorem issue_devAddr (k : BitVec 2) (r : Req) (s : State) : (State.issue k r s).devAddr = s.devAddr := rfl
@[simp] theorem issue_phase (k : BitVec 2) (r : Req) (s : State) : (State.issue k r s).phase = .wait := rfl
@[simp] theorem issue_seq (k : BitVec 2) (r : Req) (s : State) : (State.issue k r s).seq = k := rfl
@[simp] theorem issue_cmdOp (k : BitVec 2) (r : Req) (s : State) : (State.issue k r s).cmdOp = s.cmdOp := rfl
@[simp] theorem issue_cmdArg (k : BitVec 2) (r : Req) (s : State) : (State.issue k r s).cmdArg = s.cmdArg := rfl
@[simp] theorem issue_reqKind (k : BitVec 2) (r : Req) (s : State) : (State.issue k r s).reqKind = r.kind := rfl
@[simp] theorem issue_reqLen (k : BitVec 2) (r : Req) (s : State) : (State.issue k r s).reqLen = BitVec.ofNat 4 r.len := rfl
@[simp] theorem issue_txbuf (k : BitVec 2) (r : Req) (s : State) : (State.issue k r s).txbuf = r.txbuf (Config.freeByte s.draws) := rfl
@[simp] theorem issue_rxbuf (k : BitVec 2) (r : Req) (s : State) : (State.issue k r s).rxbuf = s.rxbuf := rfl
@[simp] theorem issue_rspStatus (k : BitVec 2) (r : Req) (s : State) : (State.issue k r s).rspStatus = s.rspStatus := rfl
@[simp] theorem issue_rspData (k : BitVec 2) (r : Req) (s : State) : (State.issue k r s).rspData = s.rspData := rfl
@[simp] theorem issue_rspReplug (k : BitVec 2) (r : Req) (s : State) : (State.issue k r s).rspReplug = s.rspReplug := rfl
@[simp] theorem issue_hostWords (k : BitVec 2) (r : Req) (s : State) : (State.issue k r s).hostWords = s.hostWords := rfl
@[simp] theorem issue_busAnswers (k : BitVec 2) (r : Req) (s : State) : (State.issue k r s).busAnswers = s.busAnswers := rfl
@[simp] theorem issue_resetLine (k : BitVec 2) (r : Req) (s : State) : (State.issue k r s).resetLine = s.resetLine := rfl
@[simp] theorem issue_otherMaster (k : BitVec 2) (r : Req) (s : State) : (State.issue k r s).otherMaster = s.otherMaster := rfl
@[simp] theorem issue_frameSlot (k : BitVec 2) (r : Req) (s : State) : (State.issue k r s).frameSlot = s.frameSlot := rfl
@[simp] theorem issue_history (k : BitVec 2) (r : Req) (s : State) : (State.issue k r s).history = s.history ++ [.issue (r.onBus s.devAddr)] := rfl
@[simp] theorem issue_accepted (k : BitVec 2) (r : Req) (s : State) : (State.issue k r s).accepted = s.accepted := rfl
@[simp] theorem issue_hostOut (k : BitVec 2) (r : Req) (s : State) : (State.issue k r s).hostOut = s.hostOut := rfl
@[simp] theorem issue_draws (k : BitVec 2) (r : Req) (s : State) : (State.issue k r s).draws = s.draws + 1 := rfl

/-! ### `State.complete` -/

@[simp] theorem complete_irun (r : Response) (s : State) : (State.complete r s).irun = s.irun := rfl
@[simp] theorem complete_ihold (r : Response) (s : State) : (State.complete r s).ihold = s.ihold := rfl
@[simp] theorem complete_vmax (r : Response) (s : State) : (State.complete r s).vmax = s.vmax := rfl
@[simp] theorem complete_vmin (r : Response) (s : State) : (State.complete r s).vmin = s.vmin := rfl
@[simp] theorem complete_devAddr (r : Response) (s : State) : (State.complete r s).devAddr = s.devAddr := rfl
@[simp] theorem complete_phase (r : Response) (s : State) : (State.complete r s).phase = .done := rfl
@[simp] theorem complete_seq (r : Response) (s : State) : (State.complete r s).seq = s.seq := rfl
@[simp] theorem complete_cmdOp (r : Response) (s : State) : (State.complete r s).cmdOp = s.cmdOp := rfl
@[simp] theorem complete_cmdArg (r : Response) (s : State) : (State.complete r s).cmdArg = s.cmdArg := rfl
@[simp] theorem complete_reqKind (r : Response) (s : State) : (State.complete r s).reqKind = s.reqKind := rfl
@[simp] theorem complete_reqLen (r : Response) (s : State) : (State.complete r s).reqLen = s.reqLen := rfl
@[simp] theorem complete_txbuf (r : Response) (s : State) : (State.complete r s).txbuf = s.txbuf := rfl
@[simp] theorem complete_rxbuf (r : Response) (s : State) : (State.complete r s).rxbuf = s.rxbuf := rfl
@[simp] theorem complete_rspStatus (r : Response) (s : State) : (State.complete r s).rspStatus = r.status := rfl
@[simp] theorem complete_rspData (r : Response) (s : State) : (State.complete r s).rspData = r.data := rfl
@[simp] theorem complete_rspReplug (r : Response) (s : State) : (State.complete r s).rspReplug = r.replug := rfl
@[simp] theorem complete_hostWords (r : Response) (s : State) : (State.complete r s).hostWords = s.hostWords := rfl
@[simp] theorem complete_busAnswers (r : Response) (s : State) : (State.complete r s).busAnswers = s.busAnswers := rfl
@[simp] theorem complete_resetLine (r : Response) (s : State) : (State.complete r s).resetLine = s.resetLine := rfl
@[simp] theorem complete_otherMaster (r : Response) (s : State) : (State.complete r s).otherMaster = s.otherMaster := rfl
@[simp] theorem complete_frameSlot (r : Response) (s : State) : (State.complete r s).frameSlot = s.frameSlot := rfl
@[simp] theorem complete_history (r : Response) (s : State) : (State.complete r s).history = s.history ++ [.complete r] := rfl
@[simp] theorem complete_accepted (r : Response) (s : State) : (State.complete r s).accepted = s.accepted := rfl
@[simp] theorem complete_hostOut (r : Response) (s : State) : (State.complete r s).hostOut = s.hostOut := rfl
@[simp] theorem complete_draws (r : Response) (s : State) : (State.complete r s).draws = s.draws := rfl

/-! ### `State.take` -/

@[simp] theorem take_irun (s : State) : (State.take s).irun = s.irun := rfl
@[simp] theorem take_ihold (s : State) : (State.take s).ihold = s.ihold := rfl
@[simp] theorem take_vmax (s : State) : (State.take s).vmax = s.vmax := rfl
@[simp] theorem take_vmin (s : State) : (State.take s).vmin = s.vmin := rfl
@[simp] theorem take_devAddr (s : State) : (State.take s).devAddr = s.devAddr := rfl
@[simp] theorem take_phase (s : State) : (State.take s).phase = .idle := rfl
@[simp] theorem take_seq (s : State) : (State.take s).seq = s.seq := rfl
@[simp] theorem take_cmdOp (s : State) : (State.take s).cmdOp = s.cmdOp := rfl
@[simp] theorem take_cmdArg (s : State) : (State.take s).cmdArg = s.cmdArg := rfl
@[simp] theorem take_reqKind (s : State) : (State.take s).reqKind = s.reqKind := rfl
@[simp] theorem take_reqLen (s : State) : (State.take s).reqLen = s.reqLen := rfl
@[simp] theorem take_txbuf (s : State) : (State.take s).txbuf = s.txbuf := rfl
@[simp] theorem take_rxbuf (s : State) : (State.take s).rxbuf = s.rxbuf := rfl
@[simp] theorem take_rspStatus (s : State) : (State.take s).rspStatus = s.rspStatus := rfl
@[simp] theorem take_rspData (s : State) : (State.take s).rspData = s.rspData := rfl
@[simp] theorem take_rspReplug (s : State) : (State.take s).rspReplug = s.rspReplug := rfl
@[simp] theorem take_hostWords (s : State) : (State.take s).hostWords = s.hostWords := rfl
@[simp] theorem take_busAnswers (s : State) : (State.take s).busAnswers = s.busAnswers := rfl
@[simp] theorem take_resetLine (s : State) : (State.take s).resetLine = s.resetLine := rfl
@[simp] theorem take_otherMaster (s : State) : (State.take s).otherMaster = s.otherMaster := rfl
@[simp] theorem take_frameSlot (s : State) : (State.take s).frameSlot = s.frameSlot := rfl
@[simp] theorem take_history (s : State) : (State.take s).history = s.history ++ [.take] := rfl
@[simp] theorem take_accepted (s : State) : (State.take s).accepted = s.accepted := rfl
@[simp] theorem take_hostOut (s : State) : (State.take s).hostOut = s.hostOut ++ [s.response] := rfl
@[simp] theorem take_draws (s : State) : (State.take s).draws = s.draws := rfl

/-! ### `State.latch` -/

@[simp] theorem latch_irun (w : HostWord) (s : State) : (State.latch w s).irun = s.irun := rfl
@[simp] theorem latch_ihold (w : HostWord) (s : State) : (State.latch w s).ihold = s.ihold := rfl
@[simp] theorem latch_vmax (w : HostWord) (s : State) : (State.latch w s).vmax = s.vmax := rfl
@[simp] theorem latch_vmin (w : HostWord) (s : State) : (State.latch w s).vmin = s.vmin := rfl
@[simp] theorem latch_devAddr (w : HostWord) (s : State) : (State.latch w s).devAddr = s.devAddr := rfl
@[simp] theorem latch_phase (w : HostWord) (s : State) : (State.latch w s).phase = s.phase := rfl
@[simp] theorem latch_seq (w : HostWord) (s : State) : (State.latch w s).seq = s.seq := rfl
@[simp] theorem latch_cmdOp (w : HostWord) (s : State) : (State.latch w s).cmdOp = opOf w := rfl
@[simp] theorem latch_cmdArg (w : HostWord) (s : State) : (State.latch w s).cmdArg = operandOf w := rfl
@[simp] theorem latch_reqKind (w : HostWord) (s : State) : (State.latch w s).reqKind = s.reqKind := rfl
@[simp] theorem latch_reqLen (w : HostWord) (s : State) : (State.latch w s).reqLen = s.reqLen := rfl
@[simp] theorem latch_txbuf (w : HostWord) (s : State) : (State.latch w s).txbuf = s.txbuf := rfl
@[simp] theorem latch_rxbuf (w : HostWord) (s : State) : (State.latch w s).rxbuf = s.rxbuf := rfl
@[simp] theorem latch_rspStatus (w : HostWord) (s : State) : (State.latch w s).rspStatus = s.rspStatus := rfl
@[simp] theorem latch_rspData (w : HostWord) (s : State) : (State.latch w s).rspData = s.rspData := rfl
@[simp] theorem latch_rspReplug (w : HostWord) (s : State) : (State.latch w s).rspReplug = s.rspReplug := rfl
@[simp] theorem latch_hostWords (w : HostWord) (s : State) : (State.latch w s).hostWords = s.hostWords := rfl
@[simp] theorem latch_busAnswers (w : HostWord) (s : State) : (State.latch w s).busAnswers = s.busAnswers := rfl
@[simp] theorem latch_resetLine (w : HostWord) (s : State) : (State.latch w s).resetLine = s.resetLine := rfl
@[simp] theorem latch_otherMaster (w : HostWord) (s : State) : (State.latch w s).otherMaster = s.otherMaster := rfl
@[simp] theorem latch_frameSlot (w : HostWord) (s : State) : (State.latch w s).frameSlot = s.frameSlot := rfl
@[simp] theorem latch_history (w : HostWord) (s : State) : (State.latch w s).history = s.history := rfl
@[simp] theorem latch_accepted (w : HostWord) (s : State) : (State.latch w s).accepted = s.accepted ++ [w] := rfl
@[simp] theorem latch_hostOut (w : HostWord) (s : State) : (State.latch w s).hostOut = s.hostOut := rfl
@[simp] theorem latch_draws (w : HostWord) (s : State) : (State.latch w s).draws = s.draws := rfl

/-! ### `State.answered` -/

@[simp] theorem answered_irun (a : Answer) (s : State) : (State.answered a s).irun = s.irun := rfl
@[simp] theorem answered_ihold (a : Answer) (s : State) : (State.answered a s).ihold = s.ihold := rfl
@[simp] theorem answered_vmax (a : Answer) (s : State) : (State.answered a s).vmax = s.vmax := rfl
@[simp] theorem answered_vmin (a : Answer) (s : State) : (State.answered a s).vmin = s.vmin := rfl
@[simp] theorem answered_devAddr (a : Answer) (s : State) : (State.answered a s).devAddr = s.devAddr := rfl
@[simp] theorem answered_phase (a : Answer) (s : State) : (State.answered a s).phase = s.phase := rfl
@[simp] theorem answered_seq (a : Answer) (s : State) : (State.answered a s).seq = s.seq := rfl
@[simp] theorem answered_cmdOp (a : Answer) (s : State) : (State.answered a s).cmdOp = s.cmdOp := rfl
@[simp] theorem answered_cmdArg (a : Answer) (s : State) : (State.answered a s).cmdArg = s.cmdArg := rfl
@[simp] theorem answered_reqKind (a : Answer) (s : State) : (State.answered a s).reqKind = s.reqKind := rfl
@[simp] theorem answered_reqLen (a : Answer) (s : State) : (State.answered a s).reqLen = s.reqLen := rfl
@[simp] theorem answered_txbuf (a : Answer) (s : State) : (State.answered a s).txbuf = s.txbuf := rfl
@[simp] theorem answered_rxbuf (a : Answer) (s : State) : (State.answered a s).rxbuf = s.rxbuf := rfl
@[simp] theorem answered_rspStatus (a : Answer) (s : State) : (State.answered a s).rspStatus = s.rspStatus := rfl
@[simp] theorem answered_rspData (a : Answer) (s : State) : (State.answered a s).rspData = s.rspData := rfl
@[simp] theorem answered_rspReplug (a : Answer) (s : State) : (State.answered a s).rspReplug = s.rspReplug := rfl
@[simp] theorem answered_hostWords (a : Answer) (s : State) : (State.answered a s).hostWords = s.hostWords := rfl
@[simp] theorem answered_busAnswers (a : Answer) (s : State) : (State.answered a s).busAnswers = s.busAnswers := rfl
@[simp] theorem answered_resetLine (a : Answer) (s : State) : (State.answered a s).resetLine = s.resetLine := rfl
@[simp] theorem answered_otherMaster (a : Answer) (s : State) : (State.answered a s).otherMaster = s.otherMaster := rfl
@[simp] theorem answered_frameSlot (a : Answer) (s : State) : (State.answered a s).frameSlot = s.frameSlot := rfl
@[simp] theorem answered_history (a : Answer) (s : State) : (State.answered a s).history = s.history ++ [.answer a] := rfl
@[simp] theorem answered_accepted (a : Answer) (s : State) : (State.answered a s).accepted = s.accepted := rfl
@[simp] theorem answered_hostOut (a : Answer) (s : State) : (State.answered a s).hostOut = s.hostOut := rfl
@[simp] theorem answered_draws (a : Answer) (s : State) : (State.answered a s).draws = s.draws := rfl

/-! ### `State.receive` -/

@[simp] theorem receive_irun (bytes : List Byte) (s : State) : (State.receive bytes s).irun = s.irun := rfl
@[simp] theorem receive_ihold (bytes : List Byte) (s : State) : (State.receive bytes s).ihold = s.ihold := rfl
@[simp] theorem receive_vmax (bytes : List Byte) (s : State) : (State.receive bytes s).vmax = s.vmax := rfl
@[simp] theorem receive_vmin (bytes : List Byte) (s : State) : (State.receive bytes s).vmin = s.vmin := rfl
@[simp] theorem receive_devAddr (bytes : List Byte) (s : State) : (State.receive bytes s).devAddr = s.devAddr := rfl
@[simp] theorem receive_phase (bytes : List Byte) (s : State) : (State.receive bytes s).phase = s.phase := rfl
@[simp] theorem receive_seq (bytes : List Byte) (s : State) : (State.receive bytes s).seq = s.seq := rfl
@[simp] theorem receive_cmdOp (bytes : List Byte) (s : State) : (State.receive bytes s).cmdOp = s.cmdOp := rfl
@[simp] theorem receive_cmdArg (bytes : List Byte) (s : State) : (State.receive bytes s).cmdArg = s.cmdArg := rfl
@[simp] theorem receive_reqKind (bytes : List Byte) (s : State) : (State.receive bytes s).reqKind = s.reqKind := rfl
@[simp] theorem receive_reqLen (bytes : List Byte) (s : State) : (State.receive bytes s).reqLen = s.reqLen := rfl
@[simp] theorem receive_txbuf (bytes : List Byte) (s : State) : (State.receive bytes s).txbuf = s.txbuf := rfl
@[simp] theorem receive_rxbuf (bytes : List Byte) (s : State) : (State.receive bytes s).rxbuf = Buf.ofFn fun i => bytes.getD i 0 := rfl
@[simp] theorem receive_rspStatus (bytes : List Byte) (s : State) : (State.receive bytes s).rspStatus = s.rspStatus := rfl
@[simp] theorem receive_rspData (bytes : List Byte) (s : State) : (State.receive bytes s).rspData = s.rspData := rfl
@[simp] theorem receive_rspReplug (bytes : List Byte) (s : State) : (State.receive bytes s).rspReplug = s.rspReplug := rfl
@[simp] theorem receive_hostWords (bytes : List Byte) (s : State) : (State.receive bytes s).hostWords = s.hostWords := rfl
@[simp] theorem receive_busAnswers (bytes : List Byte) (s : State) : (State.receive bytes s).busAnswers = s.busAnswers := rfl
@[simp] theorem receive_resetLine (bytes : List Byte) (s : State) : (State.receive bytes s).resetLine = s.resetLine := rfl
@[simp] theorem receive_otherMaster (bytes : List Byte) (s : State) : (State.receive bytes s).otherMaster = s.otherMaster := rfl
@[simp] theorem receive_frameSlot (bytes : List Byte) (s : State) : (State.receive bytes s).frameSlot = s.frameSlot := rfl
@[simp] theorem receive_history (bytes : List Byte) (s : State) : (State.receive bytes s).history = s.history := rfl
@[simp] theorem receive_accepted (bytes : List Byte) (s : State) : (State.receive bytes s).accepted = s.accepted := rfl
@[simp] theorem receive_hostOut (bytes : List Byte) (s : State) : (State.receive bytes s).hostOut = s.hostOut := rfl
@[simp] theorem receive_draws (bytes : List Byte) (s : State) : (State.receive bytes s).draws = s.draws := rfl

/-! ### `State.eventReset` -/

@[simp] theorem eventReset_irun (d : SlaveAddr) (s : State) : (State.eventReset d s).irun = 15 := rfl
@[simp] theorem eventReset_ihold (d : SlaveAddr) (s : State) : (State.eventReset d s).ihold = 0 := rfl
@[simp] theorem eventReset_vmax (d : SlaveAddr) (s : State) : (State.eventReset d s).vmax = 8 := rfl
@[simp] theorem eventReset_vmin (d : SlaveAddr) (s : State) : (State.eventReset d s).vmin = 0 := rfl
@[simp] theorem eventReset_devAddr (d : SlaveAddr) (s : State) : (State.eventReset d s).devAddr = d := rfl
@[simp] theorem eventReset_phase (d : SlaveAddr) (s : State) : (State.eventReset d s).phase = .idle := rfl
@[simp] theorem eventReset_hostWords (d : SlaveAddr) (s : State) : (State.eventReset d s).hostWords = s.hostWords := rfl
@[simp] theorem eventReset_busAnswers (d : SlaveAddr) (s : State) : (State.eventReset d s).busAnswers = s.answersAfterReset := rfl
@[simp] theorem eventReset_resetLine (d : SlaveAddr) (s : State) : (State.eventReset d s).resetLine = s.resetLine := rfl
@[simp] theorem eventReset_otherMaster (d : SlaveAddr) (s : State) : (State.eventReset d s).otherMaster = s.otherMaster := rfl
@[simp] theorem eventReset_frameSlot (d : SlaveAddr) (s : State) : (State.eventReset d s).frameSlot = s.frameSlot := rfl
@[simp] theorem eventReset_history (d : SlaveAddr) (s : State) : (State.eventReset d s).history = s.history := rfl
@[simp] theorem eventReset_accepted (d : SlaveAddr) (s : State) : (State.eventReset d s).accepted = s.accepted := rfl
@[simp] theorem eventReset_hostOut (d : SlaveAddr) (s : State) : (State.eventReset d s).hostOut = s.hostOut := rfl
@[simp] theorem eventReset_draws (d : SlaveAddr) (s : State) : (State.eventReset d s).draws = s.draws := rfl

/-! ### `State.ticked` -/

@[simp] theorem ticked_irun (s : State) : (State.ticked s).irun = s.irun := rfl
@[simp] theorem ticked_ihold (s : State) : (State.ticked s).ihold = s.ihold := rfl
@[simp] theorem ticked_vmax (s : State) : (State.ticked s).vmax = s.vmax := rfl
@[simp] theorem ticked_vmin (s : State) : (State.ticked s).vmin = s.vmin := rfl
@[simp] theorem ticked_devAddr (s : State) : (State.ticked s).devAddr = s.devAddr := rfl
@[simp] theorem ticked_phase (s : State) : (State.ticked s).phase = s.phase := rfl
@[simp] theorem ticked_seq (s : State) : (State.ticked s).seq = s.seq := rfl
@[simp] theorem ticked_cmdOp (s : State) : (State.ticked s).cmdOp = s.cmdOp := rfl
@[simp] theorem ticked_cmdArg (s : State) : (State.ticked s).cmdArg = s.cmdArg := rfl
@[simp] theorem ticked_reqKind (s : State) : (State.ticked s).reqKind = s.reqKind := rfl
@[simp] theorem ticked_reqLen (s : State) : (State.ticked s).reqLen = s.reqLen := rfl
@[simp] theorem ticked_txbuf (s : State) : (State.ticked s).txbuf = s.txbuf := rfl
@[simp] theorem ticked_rxbuf (s : State) : (State.ticked s).rxbuf = s.rxbuf := rfl
@[simp] theorem ticked_rspStatus (s : State) : (State.ticked s).rspStatus = s.rspStatus := rfl
@[simp] theorem ticked_rspData (s : State) : (State.ticked s).rspData = s.rspData := rfl
@[simp] theorem ticked_rspReplug (s : State) : (State.ticked s).rspReplug = s.rspReplug := rfl
@[simp] theorem ticked_hostWords (s : State) : (State.ticked s).hostWords = s.hostWords := rfl
@[simp] theorem ticked_busAnswers (s : State) : (State.ticked s).busAnswers = s.busAnswers := rfl
@[simp] theorem ticked_resetLine (s : State) : (State.ticked s).resetLine = s.resetLine.tail := rfl
@[simp] theorem ticked_otherMaster (s : State) : (State.ticked s).otherMaster = s.otherMaster := rfl
@[simp] theorem ticked_frameSlot (s : State) : (State.ticked s).frameSlot = s.frameSlot := rfl
@[simp] theorem ticked_history (s : State) : (State.ticked s).history = s.history := rfl
@[simp] theorem ticked_accepted (s : State) : (State.ticked s).accepted = s.accepted := rfl
@[simp] theorem ticked_hostOut (s : State) : (State.ticked s).hostOut = s.hostOut := rfl
@[simp] theorem ticked_draws (s : State) : (State.ticked s).draws = s.draws := rfl

/-! ### `State.offering` -/

@[simp] theorem offering_irun (ws : List HostWord) (s : State) : (State.offering ws s).irun = s.irun := rfl
@[simp] theorem offering_ihold (ws : List HostWord) (s : State) : (State.offering ws s).ihold = s.ihold := rfl
@[simp] theorem offering_vmax (ws : List HostWord) (s : State) : (State.offering ws s).vmax = s.vmax := rfl
@[simp] theorem offering_vmin (ws : List HostWord) (s : State) : (State.offering ws s).vmin = s.vmin := rfl
@[simp] theorem offering_devAddr (ws : List HostWord) (s : State) : (State.offering ws s).devAddr = s.devAddr := rfl
@[simp] theorem offering_phase (ws : List HostWord) (s : State) : (State.offering ws s).phase = s.phase := rfl
@[simp] theorem offering_seq (ws : List HostWord) (s : State) : (State.offering ws s).seq = s.seq := rfl
@[simp] theorem offering_cmdOp (ws : List HostWord) (s : State) : (State.offering ws s).cmdOp = s.cmdOp := rfl
@[simp] theorem offering_cmdArg (ws : List HostWord) (s : State) : (State.offering ws s).cmdArg = s.cmdArg := rfl
@[simp] theorem offering_reqKind (ws : List HostWord) (s : State) : (State.offering ws s).reqKind = s.reqKind := rfl
@[simp] theorem offering_reqLen (ws : List HostWord) (s : State) : (State.offering ws s).reqLen = s.reqLen := rfl
@[simp] theorem offering_txbuf (ws : List HostWord) (s : State) : (State.offering ws s).txbuf = s.txbuf := rfl
@[simp] theorem offering_rxbuf (ws : List HostWord) (s : State) : (State.offering ws s).rxbuf = s.rxbuf := rfl
@[simp] theorem offering_rspStatus (ws : List HostWord) (s : State) : (State.offering ws s).rspStatus = s.rspStatus := rfl
@[simp] theorem offering_rspData (ws : List HostWord) (s : State) : (State.offering ws s).rspData = s.rspData := rfl
@[simp] theorem offering_rspReplug (ws : List HostWord) (s : State) : (State.offering ws s).rspReplug = s.rspReplug := rfl
@[simp] theorem offering_hostWords (ws : List HostWord) (s : State) : (State.offering ws s).hostWords = ws := rfl
@[simp] theorem offering_busAnswers (ws : List HostWord) (s : State) : (State.offering ws s).busAnswers = s.busAnswers := rfl
@[simp] theorem offering_resetLine (ws : List HostWord) (s : State) : (State.offering ws s).resetLine = s.resetLine := rfl
@[simp] theorem offering_otherMaster (ws : List HostWord) (s : State) : (State.offering ws s).otherMaster = s.otherMaster := rfl
@[simp] theorem offering_frameSlot (ws : List HostWord) (s : State) : (State.offering ws s).frameSlot = s.frameSlot := rfl
@[simp] theorem offering_history (ws : List HostWord) (s : State) : (State.offering ws s).history = s.history := rfl
@[simp] theorem offering_accepted (ws : List HostWord) (s : State) : (State.offering ws s).accepted = s.accepted := rfl
@[simp] theorem offering_hostOut (ws : List HostWord) (s : State) : (State.offering ws s).hostOut = s.hostOut := rfl
@[simp] theorem offering_draws (ws : List HostWord) (s : State) : (State.offering ws s).draws = s.draws := rfl

/-! ### `State.answering` -/

@[simp] theorem answering_irun (ds : List BusDraw) (s : State) : (State.answering ds s).irun = s.irun := rfl
@[simp] theorem answering_ihold (ds : List BusDraw) (s : State) : (State.answering ds s).ihold = s.ihold := rfl
@[simp] theorem answering_vmax (ds : List BusDraw) (s : State) : (State.answering ds s).vmax = s.vmax := rfl
@[simp] theorem answering_vmin (ds : List BusDraw) (s : State) : (State.answering ds s).vmin = s.vmin := rfl
@[simp] theorem answering_devAddr (ds : List BusDraw) (s : State) : (State.answering ds s).devAddr = s.devAddr := rfl
@[simp] theorem answering_phase (ds : List BusDraw) (s : State) : (State.answering ds s).phase = s.phase := rfl
@[simp] theorem answering_seq (ds : List BusDraw) (s : State) : (State.answering ds s).seq = s.seq := rfl
@[simp] theorem answering_cmdOp (ds : List BusDraw) (s : State) : (State.answering ds s).cmdOp = s.cmdOp := rfl
@[simp] theorem answering_cmdArg (ds : List BusDraw) (s : State) : (State.answering ds s).cmdArg = s.cmdArg := rfl
@[simp] theorem answering_reqKind (ds : List BusDraw) (s : State) : (State.answering ds s).reqKind = s.reqKind := rfl
@[simp] theorem answering_reqLen (ds : List BusDraw) (s : State) : (State.answering ds s).reqLen = s.reqLen := rfl
@[simp] theorem answering_txbuf (ds : List BusDraw) (s : State) : (State.answering ds s).txbuf = s.txbuf := rfl
@[simp] theorem answering_rxbuf (ds : List BusDraw) (s : State) : (State.answering ds s).rxbuf = s.rxbuf := rfl
@[simp] theorem answering_rspStatus (ds : List BusDraw) (s : State) : (State.answering ds s).rspStatus = s.rspStatus := rfl
@[simp] theorem answering_rspData (ds : List BusDraw) (s : State) : (State.answering ds s).rspData = s.rspData := rfl
@[simp] theorem answering_rspReplug (ds : List BusDraw) (s : State) : (State.answering ds s).rspReplug = s.rspReplug := rfl
@[simp] theorem answering_hostWords (ds : List BusDraw) (s : State) : (State.answering ds s).hostWords = s.hostWords := rfl
@[simp] theorem answering_busAnswers (ds : List BusDraw) (s : State) : (State.answering ds s).busAnswers = ds := rfl
@[simp] theorem answering_resetLine (ds : List BusDraw) (s : State) : (State.answering ds s).resetLine = s.resetLine := rfl
@[simp] theorem answering_otherMaster (ds : List BusDraw) (s : State) : (State.answering ds s).otherMaster = s.otherMaster := rfl
@[simp] theorem answering_frameSlot (ds : List BusDraw) (s : State) : (State.answering ds s).frameSlot = s.frameSlot := rfl
@[simp] theorem answering_history (ds : List BusDraw) (s : State) : (State.answering ds s).history = s.history := rfl
@[simp] theorem answering_accepted (ds : List BusDraw) (s : State) : (State.answering ds s).accepted = s.accepted := rfl
@[simp] theorem answering_hostOut (ds : List BusDraw) (s : State) : (State.answering ds s).hostOut = s.hostOut := rfl
@[simp] theorem answering_draws (ds : List BusDraw) (s : State) : (State.answering ds s).draws = s.draws := rfl

/-! ### `State.slotTaken` -/

@[simp] theorem slotTaken_irun (s : State) : (State.slotTaken s).irun = s.irun := rfl
@[simp] theorem slotTaken_ihold (s : State) : (State.slotTaken s).ihold = s.ihold := rfl
@[simp] theorem slotTaken_vmax (s : State) : (State.slotTaken s).vmax = s.vmax := rfl
@[simp] theorem slotTaken_vmin (s : State) : (State.slotTaken s).vmin = s.vmin := rfl
@[simp] theorem slotTaken_devAddr (s : State) : (State.slotTaken s).devAddr = s.devAddr := rfl
@[simp] theorem slotTaken_phase (s : State) : (State.slotTaken s).phase = s.phase := rfl
@[simp] theorem slotTaken_seq (s : State) : (State.slotTaken s).seq = s.seq := rfl
@[simp] theorem slotTaken_cmdOp (s : State) : (State.slotTaken s).cmdOp = s.cmdOp := rfl
@[simp] theorem slotTaken_cmdArg (s : State) : (State.slotTaken s).cmdArg = s.cmdArg := rfl
@[simp] theorem slotTaken_reqKind (s : State) : (State.slotTaken s).reqKind = s.reqKind := rfl
@[simp] theorem slotTaken_reqLen (s : State) : (State.slotTaken s).reqLen = s.reqLen := rfl
@[simp] theorem slotTaken_txbuf (s : State) : (State.slotTaken s).txbuf = s.txbuf := rfl
@[simp] theorem slotTaken_rxbuf (s : State) : (State.slotTaken s).rxbuf = s.rxbuf := rfl
@[simp] theorem slotTaken_rspStatus (s : State) : (State.slotTaken s).rspStatus = s.rspStatus := rfl
@[simp] theorem slotTaken_rspData (s : State) : (State.slotTaken s).rspData = s.rspData := rfl
@[simp] theorem slotTaken_rspReplug (s : State) : (State.slotTaken s).rspReplug = s.rspReplug := rfl
@[simp] theorem slotTaken_hostWords (s : State) : (State.slotTaken s).hostWords = s.hostWords := rfl
@[simp] theorem slotTaken_busAnswers (s : State) : (State.slotTaken s).busAnswers = s.busAnswers := rfl
@[simp] theorem slotTaken_resetLine (s : State) : (State.slotTaken s).resetLine = s.resetLine := rfl
@[simp] theorem slotTaken_otherMaster (s : State) : (State.slotTaken s).otherMaster = s.otherMaster := rfl
@[simp] theorem slotTaken_frameSlot (s : State) : (State.slotTaken s).frameSlot = none := rfl
@[simp] theorem slotTaken_history (s : State) : (State.slotTaken s).history = s.history := rfl
@[simp] theorem slotTaken_accepted (s : State) : (State.slotTaken s).accepted = s.accepted := rfl
@[simp] theorem slotTaken_hostOut (s : State) : (State.slotTaken s).hostOut = s.hostOut := rfl
@[simp] theorem slotTaken_draws (s : State) : (State.slotTaken s).draws = s.draws := rfl

@[simp] theorem send_kind (b : List Byte) : (Req.send b).kind = .send := rfl
@[simp] theorem recv_kind : Req.recv.kind = .recv := rfl
@[simp] theorem send_len (b : List Byte) : (Req.send b).len = b.length := rfl
@[simp] theorem recv_len : Req.recv.len = 8 := rfl
@[simp] theorem send_onBus (b : List Byte) (a : SlaveAddr) : (Req.send b).onBus a = .send a none b := rfl
@[simp] theorem recv_onBus (a : SlaveAddr) : Req.recv.onBus a = .recv a none 8 := rfl

end Sys2Proof.Machine
end

