-- ==== Sys2Proof/Laws/Ops.lean ====
section
/-! SUPPORT. What each shared operation and each event can do, said once: the provers cite these and do not unfold the operations. -/

namespace Sys2Proof.Machine

/-! ## Issuing and completing -/

/-- The first bytes of TXBUF are the frame (10_state.md R33), whatever the free bytes are. -/
theorem toList_txbuf_take (bytes : List Byte) (free : Nat → Byte) (h : bytes.length ≤ 8) :
    ((Req.send bytes).txbuf free).toList.take bytes.length = bytes := by
  match bytes, h with
  | [], _ => rfl
  | [_], _ => rfl
  | [_, _], _ => rfl
  | [_, _, _], _ => rfl
  | [_, _, _, _], _ => rfl
  | [_, _, _, _, _], _ => rfl
  | [_, _, _, _, _, _], _ => rfl
  | [_, _, _, _, _, _, _], _ => rfl
  | [_, _, _, _, _, _, _, _], _ => rfl

theorem sent_issue_send (k : BitVec 2) (bytes : List Byte) (s : State) (h : bytes.length ≤ 8) :
    (State.issue k (.send bytes) s).sent = bytes := by
  have hl : (BitVec.ofNat 4 bytes.length).toNat = bytes.length := by simp; omega
  simp only [State.sent, issue_txbuf, issue_reqLen, send_len, hl]
  exact toList_txbuf_take bytes _ h

theorem sendIssued_issue (k : BitVec 2) (bytes : List Byte) (s : State) (h : bytes.length ≤ 8) :
    SendIssued [] k bytes s (State.issue k (.send bytes) s) := by
  refine ⟨_, s.draws + 1, toList_txbuf_take bytes (Config.freeByte s.draws) h, ?_⟩
  simp [State.issue]

theorem sendIssued_issue_answered (a : Answer) (k : BitVec 2) (bytes : List Byte) (s : State) (h : bytes.length ≤ 8) :
    SendIssued [.answer a] k bytes s (State.issue k (.send bytes) (s.answered a)) := by
  refine ⟨_, s.draws + 1, toList_txbuf_take bytes (Config.freeByte s.draws) h, ?_⟩
  simp [State.issue, State.answered]

theorem recvIssued_issue (k : BitVec 2) (s : State) : RecvIssued [] k s (State.issue k .recv s) :=
  ⟨Req.recv.txbuf (Config.freeByte s.draws), s.draws + 1, by simp [State.issue]⟩

theorem recvIssued_issue_answered (a : Answer) (k : BitVec 2) (s : State) :
    RecvIssued [.answer a] k s (State.issue k .recv (s.answered a)) :=
  ⟨Req.recv.txbuf (Config.freeByte s.draws), s.draws + 1, by simp [State.issue, State.answered]⟩

theorem completed_complete (r : Response) (s : State) : Completed [] r s (s.complete r) := by
  simp [Completed, State.complete]

theorem completed_complete_answered (a : Answer) (r : Response) (s : State) :
    Completed [.answer a] r s ((s.answered a).complete r) := by
  simp [Completed, State.complete, State.answered]

/-- A received frame is the buffer whose bytes arrived, byte i at RXBUF[i] (20_memory.md R44). -/
theorem receive_toList (b : Buf) (s : State) : s.receive b.toList = { s with rxbuf := b } := rfl

/-- Eight bytes are a buffer. -/
theorem exists_buf_of_length {bytes : List Byte} (h : bytes.length = 8) : ∃ b : Buf, bytes = b.toList := by
  match bytes, h with
  | [a, b, c, d, e, f, g, h'], _ => exact ⟨⟨a, b, c, d, e, f, g, h'⟩, rfl⟩

/-! ## What `exec` can do -/

/-- `s'` is `s` but for the four configuration registers. -/
def SameButConfig (s s' : State) : Prop :=
  s' = { s with irun := s'.irun, ihold := s'.ihold, vmax := s'.vmax, vmin := s'.vmin }

theorem SameButConfig.refl (s : State) : SameButConfig s s := rfl

/-- The accept part of a host command ends in one of three ways (41_sequencer.md R87): an error that is not
BUS_ERROR, with nothing written; `finish(0)`; or transaction 0, the first step of its script. -/
theorem exec_command (i : Instr) (s : State) (h : i.isFrame = false) :
    (∃ e, e ≠ .ok ∧ e ≠ .busError ∧ exec i s = .next (s.raise e)) ∨
    (∃ s', SameButConfig s s' ∧ exec i s = .next (s'.finish 0 false)) ∨
    (∃ s' bytes f, SameButConfig s s' ∧ exec i s = .next (s'.issue 0 (.send bytes)) ∧
      (script i s').head? = some (.send bytes) ∧ encodeFrame f = some bytes ∧
      (∀ addr conf, i = .burnNewAddress addr conf → burnError s.devAddrByte addr conf = none)) := by
  cases i with
  | setIrun v =>
    by_cases hv : aboveFifteen v = true
    · exact .inl ⟨.rangeError, by decide, by decide, by simp [exec, execSetIrun, hv]⟩
    · exact .inr (.inl ⟨{ s with irun := lowFour v }, rfl, by simp [exec, execSetIrun, hv]⟩)
  | setIhold v =>
    by_cases hv : aboveFifteen v = true
    · exact .inl ⟨.rangeError, by decide, by decide, by simp [exec, execSetIhold, hv]⟩
    · exact .inr (.inl ⟨{ s with ihold := lowFour v }, rfl, by simp [exec, execSetIhold, hv]⟩)
  | setVmax v =>
    by_cases hv : aboveFifteen v = true
    · exact .inl ⟨.rangeError, by decide, by decide, by simp [exec, execSetVmax, hv]⟩
    · exact .inr (.inl ⟨{ s with vmax := lowFour v }, rfl, by simp [exec, execSetVmax, hv]⟩)
  | setVmin v =>
    by_cases hv : aboveFifteen v = true
    · exact .inl ⟨.rangeError, by decide, by decide, by simp [exec, execSetVmin, hv]⟩
    · exact .inr (.inl ⟨{ s with vmin := lowFour v }, rfl, by simp [exec, execSetVmin, hv]⟩)
  | setMotorParam =>
    exact .inr (.inr ⟨s, _, .frameSetMotorParam s.irun s.ihold s.vmax s.vmin, rfl, rfl, rfl,
      by rw [bytes_frameSetMotorParam, State.motorParamFrame, encodeSetMotorParam_eq], nofun⟩)
  | setMotorParam4 a b c d =>
    by_cases hv : (aboveFifteen a || aboveFifteen b || aboveFifteen c || aboveFifteen d) = true
    · exact .inl ⟨.rangeError, by decide, by decide, by simp only [exec, execSetMotorParam4, hv, if_true]⟩
    · refine .inr (.inr ⟨s.withMotorParams a b c d, (s.withMotorParams a b c d).motorParamFrame,
        .frameSetMotorParam (lowFour a) (lowFour b) (lowFour c) (lowFour d), rfl, ?_, rfl, ?_, nofun⟩)
      · simp only [exec, execSetMotorParam4, hv, if_false, Bool.false_eq_true]
      · rw [bytes_frameSetMotorParam, State.motorParamFrame, encodeSetMotorParam_eq]; rfl
  | hardStop => exact .inr (.inr ⟨s, _, .frameHardStop, rfl, rfl, rfl, bytes_single.1, nofun⟩)
  | softStop => exact .inr (.inr ⟨s, _, .frameSoftStop, rfl, rfl, rfl, bytes_single.2.1, nofun⟩)
  | resetPosition => exact .inr (.inr ⟨s, _, .frameResetPosition, rfl, rfl, rfl, bytes_single.2.2.1, nofun⟩)
  | runInit => exact .inr (.inr ⟨s, _, .frameRunInit, rfl, rfl, rfl, bytes_single.2.2.2.1, nofun⟩)
  | getFullStatus1 => exact .inr (.inr ⟨s, _, .frameGetFullStatus1, rfl, rfl, rfl, bytes_single.2.2.2.2.1, nofun⟩)
  | getFullStatus2 => exact .inr (.inr ⟨s, _, .frameGetFullStatus2, rfl, rfl, rfl, bytes_single.2.2.2.2.2, nofun⟩)
  | setPosition t =>
    exact .inr (.inr ⟨s, _, .frameSetPosition t, rfl, rfl, rfl, bytes_frameSetPosition t, nofun⟩)
  | drive r => exact .inr (.inr ⟨s, _, .frameGetFullStatus2, rfl, rfl, rfl, bytes_single.2.2.2.2.2, nofun⟩)
  | getMotionStatus => exact .inr (.inr ⟨s, _, .frameGetFullStatus1, rfl, rfl, rfl, bytes_single.2.2.2.2.1, nofun⟩)
  | getSwitch => exact .inr (.inr ⟨s, _, .frameGetFullStatus1, rfl, rfl, rfl, bytes_single.2.2.2.2.1, nofun⟩)
  | getActualPosition => exact .inr (.inr ⟨s, _, .frameGetFullStatus2, rfl, rfl, rfl, bytes_single.2.2.2.2.2, nofun⟩)
  | burnNewAddress addr conf =>
    cases he : burnError s.devAddrByte addr conf with
    | some e =>
      refine .inl ⟨e, ?_, ?_, by simp only [exec, execBurnNewAddress, he]⟩ <;>
        (rintro rfl; unfold burnError at he; split_ifs at he <;> cases he)
    | none =>
      refine .inr (.inr ⟨s, encodeBurnAddress (dropJumper addr), .frameBurnAddress (otpBits (dropJumper addr)), rfl,
        by simp only [exec, execBurnNewAddress, he], rfl, ?_, ?_⟩)
      · rw [bytes_frameBurnAddress, encodeBurnAddress_eq]
      · intro a c hac; cases hac; exact he
  | frameSetMotorParam _ _ _ _ | frameSetPosition _ | frameHardStop | frameSoftStop | frameResetPosition | frameRunInit
  | frameGetFullStatus1 | frameGetFullStatus2 | frameBurnAddress _ => cases h

/-- A frame is issued as one SEND at the script step SEQ stands at (41_sequencer.md R89). -/
theorem exec_frame (i : Instr) (s : State) (bytes : List Byte) (h : encodeFrame i = some bytes) :
    exec i s = .next (s.issue s.seq (.send bytes)) := by
  cases i with
  | frameSetMotorParam a b c d =>
    rw [bytes_frameSetMotorParam] at h; cases h
    simp only [exec, execFrameSetMotorParam, encodeSetMotorParam_eq]
  | frameSetPosition t => rw [bytes_frameSetPosition] at h; cases h; rfl
  | frameBurnAddress n =>
    rw [bytes_frameBurnAddress] at h; cases h
    have : otpBits (addressOfOtpBits n) = n := by revert n; decide
    simp only [exec, execFrameBurnAddress, encodeBurnAddress_eq, this]
  | frameHardStop => rw [bytes_single.1] at h; cases h; rfl
  | frameSoftStop => rw [bytes_single.2.1] at h; cases h; rfl
  | frameResetPosition => rw [bytes_single.2.2.1] at h; cases h; rfl
  | frameRunInit => rw [bytes_single.2.2.2.1] at h; cases h; rfl
  | frameGetFullStatus1 => rw [bytes_single.2.2.2.2.1] at h; cases h; rfl
  | frameGetFullStatus2 => rw [bytes_single.2.2.2.2.2] at h; cases h; rfl
  | setIrun _ | setIhold _ | setVmax _ | setVmin _ | setMotorParam | setMotorParam4 _ _ _ _ | hardStop | softStop
  | resetPosition | runInit | getFullStatus1 | getFullStatus2 | setPosition _ | drive _ | getMotionStatus | getSwitch
  | getActualPosition | burnNewAddress _ _ => cases h

theorem length_encodeFrame {i : Instr} {bytes : List Byte} (h : encodeFrame i = some bytes) :
    bytes.length ≤ 8 := by
  cases i <;> first | (cases h; done) | (cases h; simp [bytesOfFrameWord])

/-! ## What an answer can do -/

/-- A good answer runs the next step of the command's script, or completes the command when there is none (R90,
R91); only a status query or DRIVE reads RXBUF, and its script has a RECV. -/
theorem resume_command (i : Instr) (k : Nat) (s : State) (hs : script i s ≠ []) (hk : k ≠ 0)
    (hr : ∀ r, i = .drive r → s.argHalf = r) :
    (∀ r, (script i s)[k]? = some r → resume i k s = .next (s.issue (BitVec.ofNat 2 k) r)) ∧
    ((script i s)[k]? = none → ∃ data replug, resume i k s = .next (s.finish data replug)) := by
  cases i with
  | setIrun _ | setIhold _ | setVmax _ | setVmin _ | frameSetMotorParam _ _ _ _ | frameSetPosition _ | frameHardStop
  | frameSoftStop | frameResetPosition | frameRunInit | frameGetFullStatus1 | frameGetFullStatus2 | frameBurnAddress _ =>
    exact absurd rfl hs
  | setMotorParam | setMotorParam4 _ _ _ _ | hardStop | softStop | resetPosition | runInit | getFullStatus1
  | getFullStatus2 | setPosition _ | burnNewAddress _ _ =>
    obtain ⟨k, rfl⟩ := Nat.exists_eq_succ_of_ne_zero hk
    exact ⟨fun r h => (by simp [script] at h), fun _ => ⟨_, _, rfl⟩⟩
  | getMotionStatus | getSwitch | getActualPosition =>
    match k, hk with
    | 1, _ => exact ⟨fun r h => (by cases h; rfl), fun h => (by cases h)⟩
    | k + 2, _ => exact ⟨fun r h => (by simp [script] at h), fun _ => ⟨_, _, rfl⟩⟩
  | drive r =>
    match k, hk with
    | 1, _ => exact ⟨fun r h => (by cases h; rfl), fun h => (by cases h)⟩
    | 2, _ =>
      refine ⟨fun q h => ?_, fun h => (by cases h)⟩
      cases h
      simp only [resume, afterDrive, State.driveTarget, hr r rfl]
      rfl
    | k + 3, _ => exact ⟨fun r h => (by simp [script] at h), fun _ => ⟨_, _, rfl⟩⟩

theorem argHalf_of_command {s : State} {r : Half} (h : s.command = some (.drive r)) : s.argHalf = r := by
  unfold State.command decodeCommand at h
  split at h <;> first | (cases h; done) | (cases h; rfl)

/-- A step of a script that sends, sends one of the nine frames (30_encoding.md R68). -/
theorem script_send_frame {i : Instr} {s : State} {k : Nat} {bytes : List Byte}
    (h : (script i s)[k]? = some (.send bytes)) : ∃ f, encodeFrame f = some bytes := by
  have hm : Req.send bytes ∈ script i s := List.mem_of_getElem? h
  cases i with
  | setIrun _ | setIhold _ | setVmax _ | setVmin _ | frameSetMotorParam _ _ _ _ | frameSetPosition _ | frameHardStop
  | frameSoftStop | frameResetPosition | frameRunInit | frameGetFullStatus1 | frameGetFullStatus2 | frameBurnAddress _ =>
    simp [script] at hm
  | setMotorParam | setMotorParam4 _ _ _ _ =>
    simp [script] at hm; subst hm
    exact ⟨.frameSetMotorParam _ _ _ _, by rw [bytes_frameSetMotorParam, encodeSetMotorParam_eq]⟩
  | hardStop => simp [script] at hm; subst hm; exact ⟨_, bytes_single.1⟩
  | softStop => simp [script] at hm; subst hm; exact ⟨_, bytes_single.2.1⟩
  | resetPosition => simp [script] at hm; subst hm; exact ⟨_, bytes_single.2.2.1⟩
  | runInit => simp [script] at hm; subst hm; exact ⟨_, bytes_single.2.2.2.1⟩
  | getFullStatus1 | getMotionStatus | getSwitch => simp [script] at hm; subst hm; exact ⟨_, bytes_single.2.2.2.2.1⟩
  | getFullStatus2 | getActualPosition => simp [script] at hm; subst hm; exact ⟨_, bytes_single.2.2.2.2.2⟩
  | setPosition t => simp [script] at hm; subst hm; exact ⟨_, bytes_frameSetPosition t⟩
  | drive r =>
    simp [script] at hm
    rcases hm with rfl | rfl
    · exact ⟨_, bytes_single.2.2.2.2.2⟩
    · exact ⟨_, bytes_frameSetPosition _⟩
  | burnNewAddress a conf =>
    simp [script] at hm; subst hm
    exact ⟨.frameBurnAddress (otpBits (dropJumper a)), by rw [bytes_frameBurnAddress, encodeBurnAddress_eq]⟩

theorem length_script_send {i : Instr} {s : State} {k : Nat} {bytes : List Byte}
    (h : (script i s)[k]? = some (.send bytes)) : bytes.length ≤ 8 := by
  obtain ⟨f, hf⟩ := script_send_frame h
  exact length_encodeFrame hf

theorem outstanding_issue {s : State} {k : BitVec 2} {r : Req} (h : ∀ bytes, r = .send bytes → bytes.length ≤ 8) :
    (s.issue k r).outstanding = r.onBus s.devAddr := by
  unfold State.outstanding
  cases r with
  | recv => simp
  | send bytes => simp [sent_issue_send k bytes s (h bytes rfl)]

/-- Issuing a step of the command's own script makes it the outstanding request. -/
theorem requestOk_issue {s : State} {i : Instr} {k : BitVec 2} {r : Req} (hc : s.command = some i)
    (hr : (script i s)[k.toNat]? = some r) : (s.issue k r).requestOk = true := by
  have h1 : (s.issue k r).command = some i := hc
  have h2 : script i (s.issue k r) = script i s := by cases i <;> rfl
  unfold State.requestOk
  rw [h1]
  dsimp only
  rw [h2, issue_seq, hr]
  cases r with
  | recv => simp
  | send bytes => simp [sent_issue_send k bytes s (length_script_send hr)]

/-- A command that stands in WAIT has a script. -/
theorem script_ne_nil_of_requestOk {s : State} (h : s.requestOk = true) :
    ∃ i, s.command = some i ∧ script i s ≠ [] := by
  unfold State.requestOk at h
  split at h
  · cases h
  · rename_i i hi
    refine ⟨i, hi, fun hn => ?_⟩
    rw [hn] at h
    simp at h

/-! ## The end of a run -/

/-- The conditions of R99, one by one. -/
theorem ended_iff (s : State) : s.ended = true ↔
    s.hostWords = [] ∧ s.phase = .idle ∧ s.hostOut.length = s.accepted.length ∧ s.frameSlot = none := by
  simp [State.ended, and_assoc]

theorem ended_eq_false_of_abandoned {s : State} (h : s.hostOut.length < s.accepted.length) : s.ended = false := by
  rw [← Bool.not_eq_true, ended_iff]
  omega

/-- In WAIT and in DONE a response is still to come or to be taken, so fewer were handed out than words accepted. -/
theorem Inv.hostOut_lt_accepted {s : State} (hi : Inv s) (hp : s.phase ≠ .idle) :
    s.hostOut.length < s.accepted.length := by
  have h1 := hi.taken
  have h2 := hi.taken_le
  have h3 := hi.completed_le
  cases h : s.phase with
  | idle => exact absurd h hp
  | wait => simp only [State.inDone, State.inWait, h] at h2 h3; simp at h2 h3; omega
  | done => simp only [State.inDone, State.inWait, h] at h2 h3; simp at h2 h3; omega

end Sys2Proof.Machine
end

