-- ==== Sys2Proof/Laws/PerInstr.lean ====
section
/-! SUPPORT. The family RoundTrip: for each instruction, what its own word or frame decodes to. -/

namespace Sys2Proof.Laws.RoundTrip

/-- Decoding what the encoder writes gives the instruction back, every operand as it was (30_encoding.md R59 to R69). -/
def Statement (i : Instr) : Prop := decode (encode i) = some i

theorem setIrun (v : Byte) : Statement (.setIrun v) := by
  rw [Statement, decode_encode_of_word rfl, decodeWord_wordOf]
  exact decodeCommand_pad8 0x01 v .setIrun fun _ => rfl

theorem setIhold (v : Byte) : Statement (.setIhold v) := by
  rw [Statement, decode_encode_of_word rfl, decodeWord_wordOf]
  exact decodeCommand_pad8 0x02 v .setIhold fun _ => rfl

theorem setVmax (v : Byte) : Statement (.setVmax v) := by
  rw [Statement, decode_encode_of_word rfl, decodeWord_wordOf]
  exact decodeCommand_pad8 0x03 v .setVmax fun _ => rfl

theorem setVmin (v : Byte) : Statement (.setVmin v) := by
  rw [Statement, decode_encode_of_word rfl, decodeWord_wordOf]
  exact decodeCommand_pad8 0x04 v .setVmin fun _ => rfl

theorem setMotorParam : Statement .setMotorParam := by unfold Statement; decide

theorem setMotorParam4 (a b c d : Byte) : Statement (.setMotorParam4 a b c d) := by
  rw [Statement, decode_encode_of_word rfl, decodeWord_wordOf]
  simp only [decodeCommand, BitVec.toNat_ofNat, fieldByte0, fieldByte1, fieldByte2, fieldByte3, Option.some.injEq,
    Instr.setMotorParam4.injEq, ← BitVec.toNat_inj, toNat_extract, toNat_append_add]
  omega

theorem hardStop : Statement .hardStop := by unfold Statement; decide
theorem softStop : Statement .softStop := by unfold Statement; decide
theorem resetPosition : Statement .resetPosition := by unfold Statement; decide
theorem runInit : Statement .runInit := by unfold Statement; decide
theorem getFullStatus1 : Statement .getFullStatus1 := by unfold Statement; decide
theorem getFullStatus2 : Statement .getFullStatus2 := by unfold Statement; decide

theorem setPosition (t : Half) : Statement (.setPosition t) := by
  rw [Statement, decode_encode_of_word rfl, decodeWord_wordOf]
  exact congrArg (fun x => some (Instr.setPosition x)) (fieldS16_pad t)

theorem drive (r : Half) : Statement (.drive r) := by
  rw [Statement, decode_encode_of_word rfl, decodeWord_wordOf]
  exact congrArg (fun x => some (Instr.drive x)) (fieldS16_pad r)

theorem getMotionStatus : Statement .getMotionStatus := by unfold Statement; decide
theorem getSwitch : Statement .getSwitch := by unfold Statement; decide
theorem getActualPosition : Statement .getActualPosition := by unfold Statement; decide

theorem burnNewAddress (addr : Byte) (conf : Bool) : Statement (.burnNewAddress addr conf) := by
  rw [Statement, decode_encode_of_word rfl, decodeWord_wordOf]
  exact congrArg₂ (fun x y => some (Instr.burnNewAddress x y)) (fieldByte0_burn conf addr) (fieldConf_burn conf addr)

theorem frameSetMotorParam (a b c d : Nibble) : Statement (.frameSetMotorParam a b c d) := by
  rw [Statement, decode_encode_of_frame rfl rfl]
  exact decodeFrame_of_encodeFrame rfl

theorem frameSetPosition (t : Half) : Statement (.frameSetPosition t) := by
  rw [Statement, decode_encode_of_frame rfl rfl]
  exact decodeFrame_of_encodeFrame rfl

theorem frameHardStop : Statement .frameHardStop := by unfold Statement; decide
theorem frameSoftStop : Statement .frameSoftStop := by unfold Statement; decide
theorem frameResetPosition : Statement .frameResetPosition := by unfold Statement; decide
theorem frameRunInit : Statement .frameRunInit := by unfold Statement; decide
theorem frameGetFullStatus1 : Statement .frameGetFullStatus1 := by unfold Statement; decide
theorem frameGetFullStatus2 : Statement .frameGetFullStatus2 := by unfold Statement; decide

theorem frameBurnAddress (bits : Nibble) : Statement (.frameBurnAddress bits) := by
  rw [Statement, decode_encode_of_frame rfl rfl]
  exact decodeFrame_of_encodeFrame rfl

end Sys2Proof.Laws.RoundTrip
end

