-- ==== Sys2Proof/Laws/Step.lean ====
section
/-! SUPPORT. What one step can do, said once: `step_cases`. Every claim about all steps is a case analysis of it. -/

namespace Sys2Proof.Machine

/-! ## E_BUSRSP -/

/-- An answer that ends the command (41_sequencer.md R90, 20_memory.md R45). -/
def BusDraw.bad (d : BusDraw) (s : State) : Prop := d.fails = true ∨ (s.reqKind = .recv ∧ d.bytes.length ≠ 8)

/-- The state a good answer leaves to the rest of the script: the answer recorded, RXBUF written by a RECV. -/
def State.afterAnswer (d : BusDraw) (s : State) : State :=
  match s.reqKind with
  | .send => s.answered .ok
  | .recv => (s.answered (.data d.bytes)).receive d.bytes

theorem eventBusRsp_bad {d : BusDraw} {s : State} (h : d.bad s) :
    eventBusRsp d s = .next ((s.answered (d.answer s.reqKind)).raise .busError) := by
  unfold eventBusRsp
  cases hf : d.fails with
  | true => simp
  | false =>
    obtain ⟨hk, hl⟩ : s.reqKind = .recv ∧ d.bytes.length ≠ 8 := h.resolve_left (by simp [hf])
    simp [hk, hl]

theorem eventBusRsp_good {d : BusDraw} {s : State} (h : ¬ d.bad s) :
    eventBusRsp d s = continueScript (s.afterAnswer d) := by
  unfold BusDraw.bad at h
  simp only [not_or, not_and, not_not, Bool.not_eq_true] at h
  unfold eventBusRsp State.afterAnswer
  cases hk : s.reqKind with
  | send => simp [h.1, BusDraw.answer]
  | recv => simp [h.1, h.2 hk, BusDraw.answer]

theorem answer_good {d : BusDraw} {s : State} (h : ¬ d.bad s) :
    d.answer s.reqKind = (match s.reqKind with | .send => .ok | .recv => .data d.bytes) := by
  unfold BusDraw.bad at h
  simp only [not_or, Bool.not_eq_true] at h
  unfold BusDraw.answer
  rw [h.1]
  cases s.reqKind <;> rfl

@[simp] theorem afterAnswer_command (d : BusDraw) (s : State) : (s.afterAnswer d).command = s.command := by
  unfold State.afterAnswer; split <;> rfl

@[simp] theorem afterAnswer_seq (d : BusDraw) (s : State) : (s.afterAnswer d).seq = s.seq := by
  unfold State.afterAnswer; split <;> rfl

/-- `s'` is `s` but for RXBUF and one more record, the answer. -/
theorem afterAnswer_eq {d : BusDraw} {s : State} (h : ¬ d.bad s) :
    s.afterAnswer d = { s with
      rxbuf := (s.afterAnswer d).rxbuf
      history := s.history ++ [.answer (d.answer s.reqKind)] } := by
  rw [answer_good h]
  cases hk : s.reqKind with
  | send => rw [show s.afterAnswer d = s.answered .ok by simp only [State.afterAnswer, hk]]; simp [State.answered, hk]
  | recv =>
    rw [show s.afterAnswer d = (s.answered (.data d.bytes)).receive d.bytes by simp only [State.afterAnswer, hk]]
    simp [State.answered, State.receive, hk]

theorem continueScript_eq {s : State} {i : Instr} (h : s.command = some i) :
    continueScript s = resume i (s.seq.toNat + 1) s := by
  rw [continueScript, h]

/-- What can follow a good answer in any state: nothing that has a rule, a next transaction that is a RECV or one
of the nine frames, or a completion. -/
theorem resume_outcome (i : Instr) (k : Nat) (s : State) :
    resume i k s = .fault .noScript ∨
    (∃ q r, resume i k s = .next (s.issue q r) ∧ (r = .recv ∨ ∃ b f, r = .send b ∧ encodeFrame f = some b)) ∨
    (∃ d p, resume i k s = .next (s.finish d p)) := by
  cases i with
  | setIrun _ | setIhold _ | setVmax _ | setVmin _ | frameSetMotorParam _ _ _ _ | frameSetPosition _ | frameHardStop
  | frameSoftStop | frameResetPosition | frameRunInit | frameGetFullStatus1 | frameGetFullStatus2 | frameBurnAddress _ =>
    exact .inl rfl
  | setMotorParam | setMotorParam4 _ _ _ _ | hardStop | softStop | resetPosition | runInit | getFullStatus1
  | getFullStatus2 | setPosition _ | burnNewAddress _ _ =>
    exact .inr (.inr ⟨_, _, rfl⟩)
  | getMotionStatus | getSwitch | getActualPosition =>
    match k with
    | 1 => exact .inr (.inl ⟨1, .recv, rfl, .inl rfl⟩)
    | 0 => exact .inr (.inr ⟨_, _, rfl⟩)
    | k + 2 => exact .inr (.inr ⟨_, _, rfl⟩)
  | drive r =>
    match k with
    | 1 => exact .inr (.inl ⟨1, .recv, rfl, .inl rfl⟩)
    | 2 =>
      exact .inr (.inl ⟨2, _, rfl, .inr ⟨_, .frameSetPosition s.driveTarget, rfl, bytes_frameSetPosition _⟩⟩)
    | 0 => exact .inr (.inr ⟨_, _, rfl⟩)
    | k + 3 => exact .inr (.inr ⟨_, _, rfl⟩)

/-! ## The step -/

/-- Without a reset or another master the step is the phase's event. -/
theorem step_quiet {s : State} (h : s.quiet) : step s = phaseEvent s.ticked := by
  unfold step
  rw [h.1, h.2]
  rfl

theorem step_reset {s : State} {d : SlaveAddr} (ho : s.otherMaster = false)
    (hr : s.resetLine.head?.join = some d) : step s = .next (State.eventReset d s.ticked) := by
  unfold step
  rw [ho, hr]
  rfl

theorem phaseEvent_frame {s : State} {bytes : List Byte} (hp : s.phase = .idle) (hs : s.frameSlot = some bytes) :
    phaseEvent s = eventFrame bytes s.slotTaken := by
  unfold phaseEvent
  rw [hp, hs]

theorem phaseEvent_word {s : State} {w : HostWord} {ws : List HostWord} (hp : s.phase = .idle)
    (hs : s.frameSlot = none) (hw : s.hostWords = w :: ws) : phaseEvent s = eventAccept w (s.offering ws) := by
  unfold phaseEvent
  rw [hp, hs, hw]

theorem phaseEvent_noWord {s : State} (hp : s.phase = .idle) (hs : s.frameSlot = none) (hw : s.hostWords = []) :
    phaseEvent s = .next s := by
  unfold phaseEvent
  rw [hp, hs, hw]

theorem phaseEvent_answer {s : State} {d : BusDraw} {ds : List BusDraw} (hp : s.phase = .wait)
    (hd : s.busAnswers = d :: ds) : phaseEvent s = eventBusRsp d (s.answering ds) := by
  unfold phaseEvent
  rw [hp, hd]

theorem phaseEvent_noAnswer {s : State} (hp : s.phase = .wait) (hd : s.busAnswers = []) :
    phaseEvent s = .next s := by
  unfold phaseEvent
  rw [hp, hd]

theorem phaseEvent_done {s : State} (hp : s.phase = .done) : phaseEvent s = .next s.take := by
  unfold phaseEvent
  rw [hp]

theorem eventAccept_legal {w : HostWord} {i : Instr} (s : State) (hi : decodeWord w = some i) :
    eventAccept w s = exec i (s.latch w) := by
  unfold eventAccept
  rw [hi]

theorem eventAccept_illegal {w : HostWord} (s : State) (hi : decodeWord w = none) :
    eventAccept w s = .next ((s.latch w).raise .illegalCommand) := by
  unfold eventAccept
  rw [hi]

/-- The state E_ACCEPT hands to the accept part: the word taken and latched. -/
def State.accepting (w : HostWord) (ws : List HostWord) (s : State) : State :=
  (s.ticked.offering ws).latch w

/-- Everything one step can do. -/
inductive StepCase (s t : State) : Prop where
  /-- E_RESET -/
  | reset (d : SlaveAddr) (hr : s.resetLine.head?.join = some d)
      (ht : t = State.eventReset d s.ticked)
  /-- nothing is enabled: no word in IDLE, no answer in WAIT -/
  | nothing (hq : s.quiet) (hp : s.phase ≠ .done) (ht : t = s.ticked)
  /-- a frame from `frameSlot` -/
  | frame (hq : s.quiet) (hp : s.phase = .idle) (bytes : List Byte) (f : Instr) (hs : s.frameSlot = some bytes)
      (hf : encodeFrame f = some bytes)
      (ht : t = State.issue s.seq (.send bytes) s.ticked.slotTaken)
  /-- E_ACCEPT, ended by an error -/
  | rejected (hq : s.quiet) (hp : s.phase = .idle) (hs : s.frameSlot = none) (w : HostWord) (ws : List HostWord)
      (hw : s.hostWords = w :: ws) (e : Status) (he : e ≠ .ok) (hb : e ≠ .busError)
      (ht : t = (s.accepting w ws).raise e)
  /-- E_ACCEPT of a setter -/
  | finished (hq : s.quiet) (hp : s.phase = .idle) (hs : s.frameSlot = none) (w : HostWord) (ws : List HostWord)
      (hw : s.hostWords = w :: ws) (i : Instr) (hi : decodeWord w = some i) (s' : State)
      (hc : SameButConfig (s.accepting w ws) s') (hx : exec i (s.accepting w ws) = .next t)
      (ht : t = s'.finish 0 false)
  /-- E_ACCEPT, transaction 0 issued -/
  | started (hq : s.quiet) (hp : s.phase = .idle) (hs : s.frameSlot = none) (w : HostWord) (ws : List HostWord)
      (hw : s.hostWords = w :: ws) (i : Instr) (hi : decodeWord w = some i) (s' : State)
      (hc : SameButConfig (s.accepting w ws) s') (hx : exec i (s.accepting w ws) = .next t)
      (bytes : List Byte) (f : Instr) (hf : encodeFrame f = some bytes)
      (hsc : (script i s').head? = some (.send bytes))
      (hburn : ∀ addr conf, i = .burnNewAddress addr conf → burnError s.devAddrByte addr conf = none)
      (ht : t = s'.issue 0 (.send bytes))
  /-- E_BUSRSP with a bad answer -/
  | failed (hq : s.quiet) (hp : s.phase = .wait) (d : BusDraw) (ds : List BusDraw) (hd : s.busAnswers = d :: ds)
      (hb : d.bad s)
      (ht : t = ((s.ticked.answering ds).answered (d.answer s.reqKind)).raise .busError)
  /-- E_BUSRSP with a good answer: the rest of the script -/
  | answered (hq : s.quiet) (hp : s.phase = .wait) (d : BusDraw) (ds : List BusDraw) (hd : s.busAnswers = d :: ds)
      (hb : ¬ d.bad s) (i : Instr) (hi : s.command = some i)
      (ht : resume i (s.seq.toNat + 1) ((s.ticked.answering ds).afterAnswer d) = .next t)
  /-- E_TAKE -/
  | took (hq : s.quiet) (hp : s.phase = .done) (ht : t = s.ticked.take)

theorem step_cases {s t : State} (h : step s = .next t) : StepCase s t := by
  have ho : s.otherMaster = false := by
    cases hs : s.otherMaster with
    | false => rfl
    | true => simp [step, hs] at h
  cases hr : s.resetLine.head?.join with
  | some d => rw [step_reset ho hr] at h; cases h; exact .reset d hr rfl
  | none =>
  have hq : s.quiet := ⟨ho, hr⟩
  rw [step_quiet hq] at h
  cases hp : s.phase with
  | done => rw [phaseEvent_done (s := s.ticked) hp] at h; cases h; exact .took hq hp rfl
  | wait =>
    cases hd : s.busAnswers with
    | nil => rw [phaseEvent_noAnswer (s := s.ticked) hp hd] at h; cases h; exact .nothing hq (by simp [hp]) rfl
    | cons d ds =>
      rw [phaseEvent_answer (s := s.ticked) hp hd] at h
      by_cases hb : d.bad s
      · have hb' : d.bad (s.ticked.answering ds) := hb
        rw [eventBusRsp_bad hb'] at h
        cases h
        exact .failed hq hp d ds hd hb rfl
      · have hb' : ¬ d.bad (s.ticked.answering ds) := hb
        rw [eventBusRsp_good hb', continueScript, afterAnswer_command] at h
        have hcmd : (s.ticked.answering ds).command = s.command := rfl
        rw [hcmd] at h
        cases hi : s.command with
        | none => rw [hi] at h; cases h
        | some i => rw [hi] at h; exact .answered hq hp d ds hd hb i hi (by simpa using h)
  | idle =>
    cases hs : s.frameSlot with
    | some bytes =>
      rw [phaseEvent_frame (s := s.ticked) hp hs, eventFrame] at h
      cases hf : decodeFrame bytes with
      | none => rw [hf] at h; cases h
      | some f =>
        rw [hf] at h
        have he := encodeFrame_of_decodeFrame hf
        dsimp only at h
        rw [exec_frame f _ bytes he] at h
        cases h
        exact .frame hq hp bytes f hs he rfl
    | none =>
      cases hw : s.hostWords with
      | nil => rw [phaseEvent_noWord (s := s.ticked) hp hs hw] at h; cases h; exact .nothing hq (by simp [hp]) rfl
      | cons w ws =>
        rw [phaseEvent_word (s := s.ticked) hp hs hw] at h
        cases hi : decodeWord w with
        | none =>
          rw [eventAccept_illegal _ hi] at h
          cases h
          exact .rejected hq hp hs w ws hw .illegalCommand (by decide) (by decide) rfl
        | some i =>
          rw [eventAccept_legal _ hi] at h
          have hx : exec i (s.accepting w ws) = .next t := h
          rcases exec_command i (s.accepting w ws) (tableRow_of_decodeCommand hi).2.2.2 with
            ⟨e, he, hb, hx'⟩ | ⟨s', hc, hx'⟩ | ⟨s', bytes, f, hc, hx', hsc, hf, hburn⟩
          · rw [hx'] at hx; cases hx
            exact .rejected hq hp hs w ws hw e he hb rfl
          · have ht : t = s'.finish 0 false := by rw [hx'] at hx; cases hx; rfl
            exact .finished hq hp hs w ws hw i hi s' hc hx ht
          · have ht : t = s'.issue 0 (.send bytes) := by rw [hx'] at hx; cases hx; rfl
            exact .started hq hp hs w ws hw i hi s' hc hx bytes f hf hsc hburn ht

/-! ## Runs -/

theorem ticked_of_no_reset {s : State} (h : s.resetLine = []) : s.ticked = s := by
  have : ({ s with resetLine := [] } : State) = s := by rw [← h]
  rw [State.ticked, h]
  exact this

theorem quiet_of_no_reset {s : State} (ho : s.otherMaster = false) (h : s.resetLine = []) : s.quiet :=
  ⟨ho, by rw [h]; rfl⟩

theorem run_succ {s t : State} (n : Nat) (h : step s = .next t) : core.run (n + 1) s = core.run n t := by
  have h' : core.step s = .next t := h
  simp only [Host.Core.run, h']

/-- A run in two parts. -/
theorem run_add (m n : Nat) {s t : State} (h : core.run m s = .next t) : core.run (m + n) s = core.run n t := by
  induction m generalizing s with
  | zero => cases h; rw [Nat.zero_add]
  | succ m ih =>
    cases hst : step s with
    | next u =>
      rw [run_succ _ hst] at h
      rw [Nat.add_right_comm, run_succ _ hst]
      exact ih h
    | fault f =>
      have h' : core.step s = .fault f := hst
      simp only [Host.Core.run, h'] at h
      cases h
    | refused f =>
      have h' : core.step s = .refused f := hst
      simp only [Host.Core.run, h'] at h
      cases h

end Sys2Proof.Machine
end

