-- ==== Sys2Proof/Tests/Slice0.lean ====
section
/-! SUPPORT. The model's own tests. Words, frames and expected results are those of 95_test_vectors.md or worked out by hand from the rule named. Each test is about one step; each witness shows a state and operands that meet the hypotheses of the statement it is named after. -/

namespace Sys2Proof.Tests

open Sys2Proof Sys2Proof.Machine

/-! ## WellFormed: each check refuses an ill-formed packet -/

/-- R63 -/
theorem test_wf_refuses_op_zero : (Packet.command 0x0000000000).wellFormed = false := by decide
theorem test_wf_refuses_op_13 : (Packet.command 0x1300000000).wellFormed = false := by decide
theorem test_wf_accepts_op_12 : (Packet.command 0x1200000115).wellFormed = true := by decide
/-- R66: no opcode, an opcode of no frame, a wrong length -/
theorem test_wf_refuses_empty_frame : (Packet.frame []).wellFormed = false := by decide
theorem test_wf_refuses_opcode : (Packet.frame [0x84]).wellFormed = false := by decide
theorem test_wf_refuses_length : (Packet.frame [0x8B, 0xFF, 0xFF, 0x00]).wellFormed = false := by decide
theorem test_wf_refuses_long_single : (Packet.frame [0x85, 0x00]).wellFormed = false := by decide
/-- R67: a reserved byte that is not its literal -/
theorem test_wf_refuses_reserved_fm : (Packet.frame [0x89, 0xFF, 0xFF, 0, 0, 0, 1, 0]).wellFormed = false := by decide
theorem test_wf_refuses_reserved_fp : (Packet.frame [0x8B, 0xFF, 0xFE, 0, 0]).wellFormed = false := by decide
theorem test_wf_refuses_reserved_fb : (Packet.frame [0x90, 0xFF, 0xFF, 0x03, 0]).wellFormed = false := by decide
/-- R68: FB's last byte is at most 0x0F -/
theorem test_wf_refuses_high_otp : (Packet.frame [0x90, 0xFF, 0xFF, 0x02, 0x10]).wellFormed = false := by decide
theorem test_wf_accepts_fb : (Packet.frame [0x90, 0xFF, 0xFF, 0x02, 0x0F]).wellFormed = true := by decide
/-- R60, R65: no ill-formed instruction can be written, so this check refuses none -/
theorem test_wf_instr : (Instr.burnNewAddress 0xFF false).wellFormed = true := by decide

/-! ## Decode: the words of 95_test_vectors.md 2.1 -/

theorem test_dec_setIrun : decodeWord 0x010000000A = some (.setIrun 10) := by decide
theorem test_dec_setIhold : decodeWord 0x0200000003 = some (.setIhold 3) := by decide
theorem test_dec_setVmax : decodeWord 0x030000000C = some (.setVmax 12) := by decide
theorem test_dec_setVmin : decodeWord 0x0400000010 = some (.setVmin 16) := by decide
theorem test_dec_setMotorParam : decodeWord 0x0500000000 = some .setMotorParam := by decide
theorem test_dec_setMotorParam4 : decodeWord 0x060A030C02 = some (.setMotorParam4 10 3 12 2) := by decide
theorem test_dec_hardStop : decodeWord 0x0700000001 = some .hardStop := by decide
theorem test_dec_softStop : decodeWord 0x0800000000 = some .softStop := by decide
theorem test_dec_resetPosition : decodeWord 0x0900000000 = some .resetPosition := by decide
theorem test_dec_runInit : decodeWord 0x0A00000000 = some .runInit := by decide
theorem test_dec_getFullStatus1 : decodeWord 0x0B00000000 = some .getFullStatus1 := by decide
theorem test_dec_getFullStatus2 : decodeWord 0x0C00000000 = some .getFullStatus2 := by decide
theorem test_dec_setPosition : decodeWord 0x0DABCD0096 = some (.setPosition 150) := by decide
theorem test_dec_drive : decodeWord 0x0E0000F830 = some (.drive (-2000)) := by decide
theorem test_dec_getMotionStatus : decodeWord 0x0F00000000 = some .getMotionStatus := by decide
theorem test_dec_getSwitch : decodeWord 0x1000000000 = some .getSwitch := by decide
theorem test_dec_getActualPosition : decodeWord 0x1100000000 = some .getActualPosition := by decide
theorem test_dec_burn : decodeWord 0x12FFFFFF15 = some (.burnNewAddress 0x15 true) := by decide
theorem test_dec_burn_unconfirmed : decodeWord 0x12FFFFFE15 = some (.burnNewAddress 0x15 false) := by decide
theorem test_dec_illegal : decodeWord 0x7F12345678 = none := by decide

/-! The frames of 95_test_vectors.md 2.2, 2.3, 2.5, 2.7, as bytes and as the table's numbers (00_scope.md R11). -/

theorem test_dec_frameSetMotorParam :
    decodeFrame [0x89, 0xFF, 0xFF, 0x12, 0x34, 0, 0, 0] = some (.frameSetMotorParam 1 2 3 4) := by decide
theorem test_dec_frameSetPosition :
    decodeFrame [0x8B, 0xFF, 0xFF, 0x12, 0x34] = some (.frameSetPosition 4660) := by decide
theorem test_dec_frameHardStop : decodeFrame [0x85] = some .frameHardStop := by decide
theorem test_dec_frameSoftStop : decodeFrame [0x8F] = some .frameSoftStop := by decide
theorem test_dec_frameResetPosition : decodeFrame [0x86] = some .frameResetPosition := by decide
theorem test_dec_frameRunInit : decodeFrame [0x88] = some .frameRunInit := by decide
theorem test_dec_frameGetFullStatus1 : decodeFrame [0x81] = some .frameGetFullStatus1 := by decide
theorem test_dec_frameGetFullStatus2 : decodeFrame [0xFC] = some .frameGetFullStatus2 := by decide
theorem test_dec_frameBurnAddress :
    decodeFrame [0x90, 0xFF, 0xFF, 0x02, 0x0C] = some (.frameBurnAddress 0xC) := by decide
theorem test_dec_tableWords :
    decodeTableWord 64 0x89FFFFA3C2000000 = some (.frameSetMotorParam 10 3 12 2) ∧
    decodeTableWord 40 0x8BFFFF8000 = some (.frameSetPosition (-32768)) ∧
    decodeTableWord 40 0x90FFFF020A = some (.frameBurnAddress 10) ∧
    decodeTableWord 40 0x90FFFF021A = none ∧
    decodeTableWord 8 0xFC = some .frameGetFullStatus2 ∧
    decodeTableWord 40 0x1200000119 = some (.burnNewAddress 0x19 true) ∧
    decodeTableWord 8 0x01 = none := by decide

/-- R73: lines of 95_test_vectors.md 2.1. -/
theorem test_assembly :
    assemblyLine (.setMotorParam4 10 3 12 2) = some "SET_MOTOR_PARAM4 10, 3, 12, 2" ∧
    assemblyLine (.drive 0xF830) = some "DRIVE -2000" ∧ assemblyLine .getSwitch = some "GET_SWITCH" ∧
    assemblyLine .frameHardStop = none := by decide

/-! ## One step of each instruction -/

/-- MSTEP right after a reset with DEV_ADDR_INIT = 0x10. -/
def machine : State := { State.reset with devAddr := 0x10 }

/-- In WAIT, step `k` of the command (`op`, `arg`) outstanding. -/
def waiting (op : Byte) (arg : BitVec 32) (k : BitVec 2) (kind : ReqKind) : State :=
  { machine with phase := .wait, cmdOp := op, cmdArg := arg, seq := k, reqKind := kind }

def ok : BusDraw := ⟨false, []⟩
def err : BusDraw := ⟨true, []⟩
def answer (bytes : List Byte) : BusDraw := ⟨false, bytes⟩

/-- The last record a step made. -/
def lastOf : Host.Outcome State Fault Refusal → Option Record
  | .next t => t.history.getLast?
  | .fault _ => none
  | .refused _ => none

/-- IRUN, IHOLD, VMAX, VMIN after a step. -/
def configOf : Host.Outcome State Fault Refusal → List Nibble
  | .next t => [t.irun, t.ihold, t.vmax, t.vmin]
  | .fault _ => []
  | .refused _ => []

def sent (bytes : List Byte) : Option Record := some (.issue (.send 0x10 none bytes))
def completed (e : Status) (d : Half) (replug : Bool) : Option Record := some (.complete ⟨e, d, replug⟩)

/-! 2.6, from the reset values 15, 0, 8, 0 -/

theorem test_setIrun_0 : configOf (exec (.setIrun 0) machine) = [0, 0, 8, 0] := by decide
theorem test_setIrun_16 : lastOf (exec (.setIrun 16) machine) = completed .rangeError 0 false ∧
    configOf (exec (.setIrun 16) machine) = [15, 0, 8, 0] := by decide
theorem test_setIhold_255 : lastOf (exec (.setIhold 255) machine) = completed .rangeError 0 false ∧
    configOf (exec (.setIhold 255) machine) = [15, 0, 8, 0] := by decide
theorem test_setIhold_3 : configOf (exec (.setIhold 3) machine) = [15, 3, 8, 0] := by decide
theorem test_setVmax_12 : lastOf (exec (.setVmax 12) machine) = completed .ok 0 false ∧
    configOf (exec (.setVmax 12) machine) = [15, 0, 12, 0] := by decide
theorem test_setVmin_15 : configOf (exec (.setVmin 15) machine) = [15, 0, 8, 15] := by decide
theorem test_setVmin_16 : lastOf (exec (.setVmin 16) machine) = completed .rangeError 0 false := by decide
/-- W9 -/
theorem test_setMotorParam :
    lastOf (exec .setMotorParam machine) = sent [0x89, 0xFF, 0xFF, 0xF0, 0x80, 0, 0, 0] := by decide
theorem test_setMotorParam_err :
    lastOf (eventBusRsp err (waiting 0x05 0 0 .send)) = completed .busError 0 false := by decide
theorem test_setMotorParam4 :
    lastOf (exec (.setMotorParam4 10 3 12 2) machine) = sent [0x89, 0xFF, 0xFF, 0xA3, 0xC2, 0, 0, 0] ∧
    configOf (exec (.setMotorParam4 10 3 12 2) machine) = [10, 3, 12, 2] := by decide
theorem test_setMotorParam4_last_bad :
    lastOf (exec (.setMotorParam4 0 0 0 16) machine) = completed .rangeError 0 false ∧
    configOf (exec (.setMotorParam4 0 0 0 16) machine) = [15, 0, 8, 0] := by decide

/-! 2.7 -/

theorem test_hardStop : lastOf (exec .hardStop machine) = sent [0x85] := by decide
theorem test_softStop : lastOf (exec .softStop machine) = sent [0x8F] := by decide
theorem test_resetPosition : lastOf (exec .resetPosition machine) = sent [0x86] := by decide
theorem test_runInit : lastOf (exec .runInit machine) = sent [0x88] := by decide
theorem test_getFullStatus1 : lastOf (exec .getFullStatus1 machine) = sent [0x81] := by decide
theorem test_getFullStatus1_ok :
    lastOf (eventBusRsp ok (waiting 0x0B 0 0 .send)) = completed .ok 0 false := by decide
theorem test_getFullStatus2 : lastOf (exec .getFullStatus2 machine) = sent [0xFC] := by decide

/-! 2.8 -/

theorem test_setPosition : lastOf (exec (.setPosition (-500)) machine) = sent [0x8B, 0xFF, 0xFF, 0xFE, 0x0C] := by
  decide
theorem test_drive_wraps :
    lastOf (eventBusRsp (answer [0, 0x7F, 0xFF, 0, 0, 0, 0, 0]) (waiting 0x0E 1 1 .recv)) =
      sent [0x8B, 0xFF, 0xFF, 0x80, 0x00] := by decide
/-- R45: five bytes delivered -/
theorem test_drive_short_answer :
    lastOf (eventBusRsp (answer [0, 0, 100, 0, 0]) (waiting 0x0E 1 1 .recv)) = completed .busError 0 false := by decide

/-! 2.9 -/

theorem test_getMotionStatus :
    lastOf (eventBusRsp (answer [0, 0, 0, 0, 0, 0x80, 0, 0]) (waiting 0x0F 0 1 .recv)) = completed .ok 4 false := by
  decide
theorem test_getSwitch :
    lastOf (eventBusRsp (answer [0, 0, 0, 0, 0, 0x30, 0, 0]) (waiting 0x10 0 1 .recv)) = completed .ok 1 false := by
  decide
theorem test_getSwitch_off :
    lastOf (eventBusRsp (answer [0, 0, 0, 0, 0, 0xEF, 0, 0]) (waiting 0x10 0 1 .recv)) = completed .ok 0 false := by
  decide
theorem test_getActualPosition :
    lastOf (eventBusRsp (answer [0xAA, 0xFF, 0xFE, 0xAA, 0xAA, 0xAA, 0xAA, 0xAA]) (waiting 0x11 0 1 .recv)) =
      completed .ok 0xFFFE false := by decide
theorem test_getActualPosition_recv :
    lastOf (eventBusRsp ok (waiting 0x11 0 0 .send)) = some (.issue (.recv 0x10 none 8)) := by decide

/-! 2.10, DEV_ADDR = 0x10 (W4 to W8) -/

theorem test_burn_refusals :
    lastOf (exec (.burnNewAddress 0x10 true) machine) = completed .notIncreasing 0 false ∧
    lastOf (exec (.burnNewAddress 0x80 false) machine) = completed .outOfRange 0 false ∧
    lastOf (exec (.burnNewAddress 0x20 false) machine) = completed .bitCannotBeCleared 0 false ∧
    lastOf (exec (.burnNewAddress 0x12 false) machine) = completed .notConfirmed 0 false := by decide
theorem test_burn_sends :
    lastOf (exec (.burnNewAddress 0x15 true) machine) = sent [0x90, 0xFF, 0xFF, 0x02, 0x0A] ∧
    lastOf (exec (.burnNewAddress 0x11 true) machine) = sent [0x90, 0xFF, 0xFF, 0x02, 0x08] ∧
    lastOf (eventBusRsp ok (waiting 0x12 0x115 0 .send)) = completed .ok 0 true := by decide

/-! R99, R141: 2.11, an E_RESET that abandons a command leaves a state that is not ended; R122, R30 -/

theorem test_reset_in_done_is_not_ended : (match step
    { machine with phase := .done, accepted := [0x0100000000], resetLine := [some 0x10] } with
    | .next t => t.phase == .idle && t.hostWords == [] && !t.ended
    | .fault _ => false
    | .refused _ => false) = true := by decide
theorem test_codes : [Status.ok, .rangeError, .busError, .notIncreasing, .outOfRange, .bitCannotBeCleared,
    .notConfirmed, .illegalCommand].map Status.code = [0, 1, 2, 3, 4, 5, 6, 7] ∧
    [Phase.idle, .wait, .done].map Phase.code = [0, 1, 2] := by decide

/-! Frames (log 9) -/

theorem test_frameSetMotorParam :
    lastOf (exec (.frameSetMotorParam 0 15 15 0) machine) = sent [0x89, 0xFF, 0xFF, 0x0F, 0xF0, 0, 0, 0] := by decide
theorem test_frameSetPosition :
    lastOf (exec (.frameSetPosition 150) machine) = sent [0x8B, 0xFF, 0xFF, 0x00, 0x96] := by decide
theorem test_frameBurnAddress :
    lastOf (exec (.frameBurnAddress 9) machine) = sent [0x90, 0xFF, 0xFF, 0x02, 0x09] := by decide
theorem test_frame_singles :
    lastOf (exec .frameHardStop machine) = sent [0x85] ∧ lastOf (exec .frameSoftStop machine) = sent [0x8F] ∧
    lastOf (exec .frameResetPosition machine) = sent [0x86] ∧ lastOf (exec .frameRunInit machine) = sent [0x88] ∧
    lastOf (exec .frameGetFullStatus1 machine) = sent [0x81] ∧
    lastOf (exec .frameGetFullStatus2 machine) = sent [0xFC] := by decide

/-- Right after reset, the very next step runs a placed word, and a placed frame. -/
theorem test_withFetchWord :
    (lastOf (step (State.reset.withFetchWord 40 0x1300000000)) = completed .illegalCommand 0 false) ∧
    (configOf (step (State.reset.withFetchWord 40 0x0100000007)) = [7, 0, 8, 0]) ∧
    ((lastOf (step (State.reset.withFetchWord 8 0x85))).any Record.isIssue = true) ∧
    ((lastOf (step (State.reset.withFetchWord 40 0x90FFFF0208))).any Record.isIssue = true) := by decide

/-! ## Witnesses: a state and operands that meet each statement's hypotheses

`burning` stands in a run: DEV_ADDR 0x10, `BURN_NEW_ADDRESS 0x15, 1` accepted, its frame on the bus (W8). -/

def offered (w : HostWord) : State := { machine with hostWords := [w] }

def burning : State :=
  { waiting 0x12 0x115 0 .send with
    reqLen := 5
    txbuf := ⟨0x90, 0xFF, 0xFF, 0x02, 0x0A, 0, 0, 0⟩
    history := [.issue (.send 0x10 none [0x90, 0xFF, 0xFF, 0x02, 0x0A])]
    accepted := [0x1200000115]
    busAnswers := [ok] }

theorem burning_inv : Inv burning where
  noSlot := rfl
  request _ := by decide
  gated _ := by decide
  lastIssue _ := by decide
  response := nofun
  lastComplete := nofun
  lastIdle := nofun
  legal := by decide
  opened := by decide
  serial := by decide
  taken := by decide
  taken_le := by decide
  completed_le := by decide

/-- A reset in each phase, with the least and the greatest DEV_ADDR_INIT. -/
theorem witness_ResetEventFromAnyState :
    ∃ s1 s2 s3 : State, (s1.otherMaster = false ∧ s1.resetLine = [some 0x00] ∧ s1.phase = .idle) ∧
      (s2.otherMaster = false ∧ s2.resetLine = [some 0x7F, none] ∧ s2.phase = .wait ∧ s2.busAnswers ≠ []) ∧
      (s3.otherMaster = false ∧ s3.resetLine = [some 0x15] ∧ s3.phase = .done) :=
  ⟨{ machine with resetLine := [some 0x00] }, { burning with resetLine := [some 0x7F, none] },
    { machine with phase := .done, resetLine := [some 0x15] }, by decide⟩

/-- With nothing offered, and with a word offered. -/
theorem witness_ResetAbandonsTheOutstandingRequest :
    ∀ ws ∈ [[], [(0x0700000000 : HostWord)]],
      ∃ s : State, s.otherMaster = false ∧ s.resetLine = [some 0x10] ∧ s.phase = .wait ∧ s.busAnswers = [ok] ∧
        s.frameSlot = none ∧ s.hostWords = ws :=
  fun ws _ => ⟨{ burning with resetLine := [some 0x10], hostWords := ws }, rfl, rfl, rfl, rfl, rfl, rfl⟩

theorem witness_StepRunsTheDecodedInstruction :
    (∃ s : State, ∃ w i, s.quiet ∧ s.phase = .idle ∧ s.frameSlot = none ∧ s.hostWords = [w] ∧
      decodeWord w = some i) ∧
    ∃ s : State, ∃ bytes i, s.quiet ∧ s.phase = .idle ∧ s.frameSlot = some bytes ∧ decodeFrame bytes = some i :=
  ⟨⟨offered 0x010000000A, 0x010000000A, .setIrun 10, ⟨rfl, rfl⟩, by decide⟩,
    { machine with frameSlot := some [0x85] }, [0x85], .frameHardStop, ⟨rfl, rfl⟩, by decide⟩

/-- A legal word at each end of the range, and an illegal one beside each end; the three ways an accept ends. -/
theorem witness_EveryAcceptEndsInDoneOrWait : ∀ w ∈ [(0x0100000000 : HostWord), 0x1200000000, 0x0000000000,
    0x1300000000, 0x0100000010, 0x0700000000],
    (offered w).quiet ∧ (offered w).phase = .idle ∧ (offered w).frameSlot = none ∧ (offered w).hostWords = [w] :=
  fun _ _ => ⟨⟨rfl, rfl⟩, rfl, rfl, rfl⟩

theorem witness_IllegalWordCompletesAtOnce : ∀ w ∈ [(0x0012345678 : HostWord), 0x1300000000, 0xFFFFFFFFFF],
    ((offered w).quiet ∧ (offered w).phase = .idle ∧ (offered w).frameSlot = none ∧ (offered w).hostWords = [w]) ∧
    (w.extractLsb' 32 8 = 0 ∨ 0x13 ≤ (w.extractLsb' 32 8).toNat) := by
  intro w hw
  refine ⟨⟨⟨rfl, rfl⟩, rfl, rfl, rfl⟩, ?_⟩
  simp only [List.mem_cons, List.not_mem_nil, or_false] at hw
  rcases hw with rfl | rfl | rfl <;> decide

/-- A word is offered, and MSTEP is busy: in WAIT without an answer, in WAIT with one, in DONE. -/
theorem witness_OfferedWordsWaitWhileBusy :
    ∃ s1 t1 s2 t2 s3 t3 : State,
      (s1.phase = .wait ∧ s1.hostWords ≠ [] ∧ step s1 = .next t1) ∧
      (s2.phase = .wait ∧ s2.hostWords ≠ [] ∧ s2.busAnswers ≠ [] ∧ step s2 = .next t2) ∧
      (s3.phase = .done ∧ s3.hostWords ≠ [] ∧ step s3 = .next t3) :=
  ⟨{ burning with busAnswers := [], hostWords := [0x0700000000] }, _, { burning with hostWords := [0x0700000000] }, _,
    { machine with phase := .done, hostWords := [0x0700000000] }, _,
    ⟨rfl, by decide, rfl⟩, ⟨rfl, by decide, by decide, rfl⟩, ⟨rfl, by decide, rfl⟩⟩

theorem witness_TakeHandsOverTheResponse : ∃ s : State, s.quiet ∧ s.phase = .done :=
  ⟨{ machine with phase := .done, rspStatus := .rangeError }, ⟨rfl, rfl⟩, rfl⟩

theorem witness_UnansweredRequestWaitsForEver :
    ∃ s : State, s.otherMaster = false ∧ s.resetLine = [] ∧ s.phase = .wait ∧ s.busAnswers = [] :=
  ⟨{ burning with busAnswers := [] }, by decide⟩

theorem witness_SharedBusHandleIsRefused : ∃ s : State, s.otherMaster = true :=
  ⟨{ machine with otherMaster := true }, rfl⟩

theorem witness_CodecLawsHold : ∃ (t : Half) (f : Buf),
    (encodeSetPosition t)[3]? = some f.b1 ∧ (encodeSetPosition t)[4]? = some f.b2 :=
  ⟨-500, ⟨0, 0xFE, 0x0C, 0, 0, 0, 0, 0⟩, by decide⟩

theorem witness_StatusDecodesIgnoreOtherBytes :
    (∃ f g : Buf, f.b5 ≠ g.b5 ∧ f.b5.getLsbD 4 ≠ g.b5.getLsbD 4 ∧ f.b5.toNat / 32 = g.b5.toNat / 32) ∧
    (∃ f g : Buf, f.b5.toNat / 32 ≠ g.b5.toNat / 32 ∧ f.b5.getLsbD 4 = g.b5.getLsbD 4) ∧
    ∃ f g : Buf, f ≠ g ∧ f.b1 = g.b1 ∧ f.b2 = g.b2 :=
  ⟨⟨⟨0, 0, 0, 0, 0, 0xE0, 0, 0⟩, ⟨1, 2, 3, 4, 5, 0xFF, 7, 8⟩, by decide⟩,
    ⟨⟨0, 0, 0, 0, 0, 0x10, 0, 0⟩, ⟨1, 2, 3, 4, 5, 0xFF, 7, 8⟩, by decide⟩,
    ⟨zeroBuf, ⟨1, 0, 0, 4, 5, 6, 7, 8⟩, by decide⟩⟩

theorem witness_MotionStatusNames : ∃ v w : BitVec 3, motionState v = motionState w := ⟨7, 7, rfl⟩

theorem witness_BurnFrameCarriesTheOtpBits : ∃ i : Nat, i < 4 := ⟨3, by decide⟩

theorem witness_CodecFramesAreTheFrameWords : ∃ i bytes, encodeFrame i = some bytes :=
  ⟨.frameBurnAddress 15, [0x90, 0xFF, 0xFF, 0x02, 0x0F], by decide⟩

/-- The four setters: a word of each OP, and the values at and beside the bound. -/
theorem witness_Setters :
    (0x01FFFFFF0A : HostWord).extractLsb' 32 8 = 0x01 ∧ (0x0200000003 : HostWord).extractLsb' 32 8 = 0x02 ∧
    (0x030000000C : HostWord).extractLsb' 32 8 = 0x03 ∧ (0x0400000002 : HostWord).extractLsb' 32 8 = 0x04 ∧
    15 < (16 : Byte).toNat ∧ 15 < (255 : Byte).toNat ∧ (15 : Byte).toNat ≤ 15 ∧ (0 : Byte).toNat ≤ 15 := by decide

/-- `OneStepCompletes` of every command of one transaction: its state in WAIT, and an answer of each kind. -/
theorem witness_OneStepCompletes :
    (waiting 0x05 0 0 .send).command = some .setMotorParam ∧
    (waiting 0x06 0x0F000800 0 .send).command = some (.setMotorParam4 15 0 8 0) ∧
    (waiting 0x07 0 0 .send).command = some .hardStop ∧ (waiting 0x08 0 0 .send).command = some .softStop ∧
    (waiting 0x09 0 0 .send).command = some .resetPosition ∧ (waiting 0x0A 0 0 .send).command = some .runInit ∧
    (waiting 0x0B 0 0 .send).command = some .getFullStatus1 ∧ (waiting 0x0C 0 0 .send).command = some .getFullStatus2 ∧
    (waiting 0x0D 0x96 0 .send).command = some (.setPosition 150) ∧ burning.command = some (.burnNewAddress 0x15 true) ∧
    (waiting 0x05 0 0 .send).reqKind = .send ∧ ok.fails = false ∧ err.fails = true := by decide

theorem witness_SetMotorParamSendsTheRegisters : (0x0500000000 : HostWord).extractLsb' 32 8 = 0x05 := by decide

/-- One value out of range in the first and in the last place; all four at the bound. -/
theorem witness_SetMotorParam4ChecksAllThenWritesAll :
    (0x060F000800 : HostWord).extractLsb' 32 8 = 0x06 ∧
    (15 < (16 : Byte).toNat ∨ 15 < (0 : Byte).toNat ∨ 15 < (0 : Byte).toNat ∨ 15 < (0 : Byte).toNat) ∧
    (15 < (15 : Byte).toNat ∨ 15 < (15 : Byte).toNat ∨ 15 < (15 : Byte).toNat ∨ 15 < (16 : Byte).toNat) ∧
    (15 : Byte).toNat ≤ 15 := by decide

theorem witness_SingleOpcodeCommandsSendOneByte :
    ((0x0C : Byte), (0xFC : Byte), Instr.getFullStatus2) ∈ [((0x07 : Byte), (0x85 : Byte), Instr.hardStop),
      (0x08, 0x8F, .softStop), (0x09, 0x86, .resetPosition), (0x0A, 0x88, .runInit), (0x0B, 0x81, .getFullStatus1),
      (0x0C, 0xFC, .getFullStatus2)] ∧
    (0x0700000001 : HostWord).extractLsb' 32 8 = 0x07 ∧ (0x0C00000000 : HostWord).extractLsb' 32 8 = 0x0C := by decide

theorem witness_SetPositionSendsTheTarget : (0x0DABCD0096 : HostWord).extractLsb' 32 8 = 0x0D := by decide

/-- DRIVE clause by clause: every step, a failed answer, a short and a long answer, a position at each end. -/
theorem witness_DriveSendsTheWrappedSum :
    (0x0E00000032 : HostWord).extractLsb' 32 8 = 0x0E ∧
    (waiting 0x0E 0x32 0 .send).command = some (.drive 50) ∧ (waiting 0x0E 0x32 1 .recv).command = some (.drive 50) ∧
    (waiting 0x0E 0x32 2 .send).command = some (.drive 50) ∧
    (waiting 0x0E 0x32 0 .send).seq = 0 ∧ (waiting 0x0E 0x32 1 .recv).seq = 1 ∧ (waiting 0x0E 0x32 2 .send).seq = 2 ∧
    (waiting 0x0E 0x32 0 .send).reqKind = .send ∧ (waiting 0x0E 0x32 1 .recv).reqKind = .recv ∧
    (waiting 0x0E 0x32 2 .send).reqKind = .send ∧ err.fails = true ∧ ok.fails = false ∧
    (answer [1, 2, 3, 4, 5, 6, 7]).bytes.length ≠ 8 ∧ (answer [1, 2, 3, 4, 5, 6, 7, 8, 9]).bytes.length ≠ 8 ∧
    (answer [0, 0x80, 0, 0, 0, 0, 0, 0]).bytes = Buf.toList ⟨0, 0x80, 0, 0, 0, 0, 0, 0⟩ ∧
    (answer [0, 0x7F, 0xFF, 0, 0, 0, 0, 0]).bytes = Buf.toList ⟨0, 0x7F, 0xFF, 0, 0, 0, 0, 0⟩ := by decide

/-- W10: `DRIVE 50`, position 100. -/
theorem witness_DriveRunIssuesReadThenWrappedTarget :
    ∃ (s : State) (w : HostWord) (a0 a1 a2 : BusDraw) (b : Buf),
      s.otherMaster = false ∧ s.resetLine = [] ∧ s.phase = .idle ∧ s.frameSlot = none ∧ s.hostWords = [w] ∧
      w.extractLsb' 32 8 = 0x0E ∧ s.busAnswers = [a0, a1, a2] ∧
      a0.fails = false ∧ a1.fails = false ∧ a2.fails = false ∧ a1.bytes = b.toList :=
  ⟨{ offered 0x0E00000032 with busAnswers := [ok, answer [0, 0, 0x64, 0, 0, 0, 0, 0], ok] }, 0x0E00000032,
    ok, answer [0, 0, 0x64, 0, 0, 0, 0, 0], ok, ⟨0, 0, 0x64, 0, 0, 0, 0, 0⟩, by decide⟩

/-- The three queries, clause by clause. -/
theorem witness_TwoStepQuery :
    (0x0F00000000 : HostWord).extractLsb' 32 8 = 0x0F ∧ (0x1000000000 : HostWord).extractLsb' 32 8 = 0x10 ∧
    (0x1100000000 : HostWord).extractLsb' 32 8 = 0x11 ∧
    (∀ k ∈ [((0 : BitVec 2), ReqKind.send), (1, ReqKind.recv)],
      (waiting 0x0F 0 k.1 k.2).command = some .getMotionStatus ∧ (waiting 0x10 0 k.1 k.2).command = some .getSwitch ∧
      (waiting 0x11 0 k.1 k.2).command = some .getActualPosition ∧
      (waiting 0x11 0 k.1 k.2).seq = k.1 ∧ (waiting 0x11 0 k.1 k.2).reqKind = k.2) ∧
    err.fails = true ∧ ok.fails = false ∧ (answer []).bytes.length ≠ 8 ∧
    (answer [0, 0, 0, 0, 0, 0xFF, 0, 0]).bytes = Buf.toList ⟨0, 0, 0, 0, 0, 0xFF, 0, 0⟩ := by decide

/-- 2.10: each clause at its boundary, DEV_ADDR = 0x10. -/
theorem witness_BurnChecksInOrderThenSends :
    (0x1200000108 : HostWord).extractLsb' 32 8 = 0x12 ∧
    (0x10 : Byte).toNat ≤ machine.devAddr.toNat ∧
    (machine.devAddr.toNat < (0x80 : Byte).toNat ∧ 0x7F < (0x80 : Byte).toNat) ∧
    (machine.devAddr.toNat < (0x20 : Byte).toNat ∧ (0x20 : Byte).toNat ≤ 0x7F ∧
      machine.devAddr.getLsbD 4 = true ∧ (0x20 : Byte).getLsbD 4 = false) ∧
    (∀ n ∈ [(0x11 : Byte), 0x7F], machine.devAddr.toNat < n.toNat ∧ n.toNat ≤ 0x7F ∧
      ∀ b ∈ [1, 2, 3, 4], machine.devAddr.getLsbD b = true → n.getLsbD b = true) := by decide

theorem witness_OddBurnAddressIsSentAsTheEvenOneBelow :
    ((0x11 : Byte).toNat = machine.devAddr.toNat + 1 ∧ (0x11 : Byte).toNat % 2 = 1 ∧ (0x11 : Byte).toNat ≤ 0x7F) ∧
    (machine.devAddr.toNat < (0x70 : Byte).toNat ∧ (0x70 : Byte).toNat ≤ 0x7F ∧
      (0x70 : Byte).toNat % 32 = machine.devAddr.toNat % 32) := by decide

theorem witness_NoBurnFrameWithoutConfirmation : ∃ s : State,
    Inv s ∧ s.phase = .wait ∧ s.reqKind = .send ∧ s.sent.head? = some 0x90 :=
  ⟨burning, burning_inv, by decide⟩

/-- A next step, then none; a RECV of 8 bytes. -/
theorem witness_GoodAnswerRunsTheNextScriptStep :
    (script .hardStop (waiting 0x07 0 0 .send) ≠ [] ∧ (waiting 0x07 0 0 .send).command = some .hardStop ∧
      (script .hardStop (waiting 0x07 0 0 .send))[1]? = none) ∧
    (script .getSwitch (waiting 0x10 0 0 .send) ≠ [] ∧ (waiting 0x10 0 0 .send).command = some .getSwitch ∧
      (script .getSwitch (waiting 0x10 0 0 .send))[1]? = some .recv) ∧
    ((waiting 0x10 0 1 .recv).reqKind = .recv ∧ (answer [0, 0, 0, 0, 0, 0, 0, 0]).bytes.length = 8 ∧
      (answer [0, 0, 0, 0, 0, 0, 0, 0]).fails = false) := by decide

theorem witness_BusErrorEndsTheCommand :
    (∃ (s : State) (d : BusDraw), s.quiet ∧ s.phase = .wait ∧ s.busAnswers = [d] ∧ d.fails = true) ∧
    ∃ (s : State) (d : BusDraw), s.quiet ∧ s.phase = .wait ∧ s.busAnswers = [d] ∧
      s.reqKind = .recv ∧ d.bytes.length ≠ 8 :=
  ⟨⟨{ burning with busAnswers := [err] }, err, ⟨rfl, rfl⟩, by decide⟩,
    { waiting 0x0E 1 1 .recv with busAnswers := [answer [1, 2, 3, 4, 5]] }, answer [1, 2, 3, 4, 5], ⟨rfl, rfl⟩,
    by decide⟩

theorem witness_OtherErrorsArePreIo : ∃ s t : State,
    step s = .next t ∧ t.phase = .done ∧ t.rspStatus ≠ .ok ∧ t.rspStatus ≠ .busError :=
  ⟨offered 0x0400000010, _, rfl, by decide⟩

/-- A setter and SET_MOTOR_PARAM4, for each of the four registers. -/
theorem witness_OnlySettersAndResetChangeTheConfiguration :
    (∃ s1 t1 s2 t2 s3 t3 s4 t4 : State,
      (step s1 = .next t1 ∧ t1.irun ≠ s1.irun) ∧ (step s2 = .next t2 ∧ t2.ihold ≠ s2.ihold) ∧
      (step s3 = .next t3 ∧ t3.vmax ≠ s3.vmax) ∧ (step s4 = .next t4 ∧ t4.vmin ≠ s4.vmin)) ∧
    (∃ s t : State, (step s = .next t ∧ ∀ d, s.resetLine.head? ≠ some (some d)) ∧
      t.irun ≠ s.irun ∧ t.ihold ≠ s.ihold ∧ t.vmax ≠ s.vmax ∧ t.vmin ≠ s.vmin) :=
  ⟨⟨offered 0x0100000000, _, offered 0x020000000F, _, offered 0x030000000C, _, offered 0x0400000001, _,
    ⟨rfl, by decide⟩, ⟨rfl, by decide⟩, ⟨rfl, by decide⟩, ⟨rfl, by decide⟩⟩,
    offered 0x060A030C02, _, ⟨rfl, nofun⟩, by decide⟩

theorem witness_OnlyResetWritesTheDeviceAddress :
    (∃ s t : State, step s = .next t ∧ s.resetLine.head?.join = some 0x15) ∧
    ∃ s t : State, step s = .next t ∧ s.resetLine.head?.join = none :=
  ⟨⟨{ burning with resetLine := [some 0x15] }, _, rfl, rfl⟩, burning, _, rfl, rfl⟩

/-- A step that issues a SEND, and one that issues a RECV. -/
theorem witness_EveryIssueIsOneOfTheNineFramesOrARecv :
    (∃ s t : State, step s = .next t ∧ t.history = s.history ++ [.issue (.send 0x10 none [0x85])]) ∧
    ∃ s t : State, step s = .next t ∧ t.history = s.history ++ [.answer .ok, .issue (.recv 0x10 none 8)] :=
  ⟨⟨offered 0x0700000000, _, rfl, rfl⟩, { waiting 0x11 0 0 .send with busAnswers := [ok] }, _, rfl, rfl⟩

theorem witness_OneTransactionInFlight : ∃ s t : State, step s = .next t ∧ t.history ≠ s.history :=
  ⟨burning, _, rfl, by decide⟩

theorem witness_EveryStepKeepsTheInvariant : ∃ s t : State, Inv s ∧ step s = .next t :=
  ⟨burning, _, burning_inv, rfl⟩

theorem witness_NoStepStopsUnderTheInvariant : ∃ s : State, Inv s ∧ s.otherMaster = false :=
  ⟨burning, burning_inv, rfl⟩

/-- Two different states with one view: an ignored operand bit, hidden registers, drawn values. -/
theorem witness_HiddenStateAndIgnoredBitsAreUnobservable : ∃ s t : State, s ≠ t ∧ Inv s ∧ s.view = t.view :=
  ⟨{ burning with hostWords := [0x0700000000] },
    { burning with hostWords := [0x0700000001], cmdArg := 0xFFFFFF15, rxbuf := ⟨1, 2, 3, 4, 5, 6, 7, 8⟩, draws := 9 },
    by decide,
    { noSlot := rfl, request := fun _ => by decide, gated := fun _ => by decide, lastIssue := fun _ => by decide
      response := nofun, lastComplete := nofun, lastIdle := nofun, legal := by decide, opened := by decide
      serial := by decide, taken := by decide, taken_le := by decide, completed_le := by decide },
    by decide⟩

theorem witness_StepsFromOneViewAgree : ∃ s t : State, s ≠ t ∧ Inv s ∧ s.view = t.view :=
  witness_HiddenStateAndIgnoredBitsAreUnobservable

/-- After W4's burn was refused and its response taken. -/
def refusedBurn : State :=
  { machine with
    cmdOp := 0x12, cmdArg := 0x108, rspStatus := .notIncreasing
    history := [.complete ⟨.notIncreasing, 0, false⟩, .take]
    accepted := [0x1200000108], hostOut := [⟨.notIncreasing, 0, false⟩] }

theorem witness_EndedRunAnsweredEveryWord : ∃ s : State, Inv s ∧ s.ended = true ∧ s.accepted ≠ [] :=
  ⟨refusedBurn,
    { noSlot := rfl, request := nofun, gated := nofun, lastIssue := nofun, response := nofun, lastComplete := nofun
      lastIdle := fun _ => by decide, legal := by decide, opened := by decide, serial := by decide
      taken := by decide, taken_le := by decide, completed_le := by decide },
    by decide⟩

/-- In WAIT, and in DONE. -/
theorem witness_AbandonedCommandNeverEnds :
    (∃ s : State, Inv s ∧ s.otherMaster = false ∧ s.phase = .wait ∧ s.resetLine.head? = some (some 0x15)) ∧
    ∃ s : State, Inv s ∧ s.otherMaster = false ∧ s.phase = .done ∧ s.resetLine.head? = some (some 0x15) :=
  ⟨⟨{ burning with resetLine := [some 0x15] },
    { noSlot := rfl, request := fun _ => by decide, gated := fun _ => by decide, lastIssue := fun _ => by decide
      response := nofun, lastComplete := nofun, lastIdle := nofun, legal := by decide, opened := by decide
      serial := by decide, taken := by decide, taken_le := by decide, completed_le := by decide },
    by decide⟩,
    { refusedBurn with
      phase := .done, resetLine := [some 0x15], history := [.complete ⟨.notIncreasing, 0, false⟩], hostOut := [] },
    { noSlot := rfl, request := nofun, gated := nofun, lastIssue := nofun, response := fun _ => by decide
      lastComplete := fun _ => by decide, lastIdle := nofun, legal := by decide, opened := by decide
      serial := by decide, taken := by decide, taken_le := by decide, completed_le := by decide },
    by decide⟩

theorem witness_EveryAnsweredCommandCompletesOnce : ∃ (s : State) (w : HostWord),
    s.otherMaster = false ∧ s.resetLine = [] ∧ s.phase = .idle ∧ s.frameSlot = none ∧ s.hostWords = [w] ∧
    3 ≤ s.busAnswers.length :=
  ⟨{ offered 0x0E00000032 with busAnswers := [ok, answer [0, 0, 0x64, 0, 0, 0, 0, 0], ok] }, 0x0E00000032, by decide⟩

theorem witness_EveryAnsweredProgramEnds : ∃ s : State,
    s.otherMaster = false ∧ s.resetLine = [] ∧ s.phase = .idle ∧ s.frameSlot = none ∧
    s.hostWords = [0x010000000A, 0x0700000000] ∧ 3 * 2 ≤ s.busAnswers.length :=
  ⟨{ machine with hostWords := [0x010000000A, 0x0700000000], busAnswers := [ok, ok, err, ok, ok, ok] }, by decide⟩

theorem witness_EncodeOfDecodeIsTheWord :
    decodeFrame [0x90, 0xFF, 0xFF, 0x02, 0x0F] = some (.frameBurnAddress 15) ∧
    decodeWord 0x12FFFFFE15 = some (.burnNewAddress 0x15 false) := by decide

/-- A word of the row, and one that is not. -/
theorem witness_DecoderAgreesWithTheOpcodeTable :
    (0x12FFFFFF15 < 2 ^ (tableRow (.burnNewAddress 0 false)).width ∧
      0x12FFFFFF15 &&& (tableRow (.burnNewAddress 0 false)).mask = (tableRow (.burnNewAddress 0 false)).value) ∧
    (0x90FFFF0210 < 2 ^ (tableRow (.frameBurnAddress 0)).width ∧
      0x90FFFF0210 &&& (tableRow (.frameBurnAddress 0)).mask ≠ (tableRow (.frameBurnAddress 0)).value) := by decide

theorem witness_BusTraceIsCutByFrameLength :
    ∀ p ∈ [(Instr.frameHardStop, [(0x85 : Byte)]), (.frameSetPosition 150, [0x8B, 0xFF, 0xFF, 0x00, 0x96])],
      encodeFrame p.1 = some p.2 := by decide

end Sys2Proof.Tests
end

/-! SUPPORT. Proofs about the state and its invariant: what each event keeps of the configuration, of DEV_ADDR and
of `Inv` (10_state.md R22 to R39). -/

namespace Sys2Proof.Machine

/-! ## What the sequencer's operations keep -/

theorem SameButConfig.eq {s s' : State} (h : SameButConfig s s') :
    s' = { s with irun := s'.irun, ihold := s'.ihold, vmax := s'.vmax, vmin := s'.vmin } := h

theorem SameButConfig.devAddr {s s' : State} (h : SameButConfig s s') : s'.devAddr = s.devAddr := by
  rw [h.eq]

theorem SameButConfig.command {s s' : State} (h : SameButConfig s s') : s'.command = s.command := by
  rw [h.eq]; rfl

theorem SameButConfig.history {s s' : State} (h : SameButConfig s s') : s'.history = s.history := by
  rw [h.eq]

theorem SameButConfig.accepted {s s' : State} (h : SameButConfig s s') : s'.accepted = s.accepted := by
  rw [h.eq]

/-- The rest of a script only issues or completes. -/
theorem resume_next {i : Instr} {k : Nat} {s t : State} (h : resume i k s = .next t) :
    (∃ q r, t = s.issue q r) ∨ ∃ r, t = s.complete r := by
  rcases resume_outcome i k s with hf | ⟨q, r, hq, -⟩ | ⟨d, p, hd⟩
  · rw [hf] at h; cases h
  · rw [hq] at h; cases h; exact .inl ⟨q, r, rfl⟩
  · rw [hd] at h; cases h; exact .inr ⟨_, rfl⟩

@[simp] theorem afterAnswer_devAddr (d : BusDraw) (s : State) : (s.afterAnswer d).devAddr = s.devAddr := by
  unfold State.afterAnswer; split <;> rfl

@[simp] theorem afterAnswer_cmdOp (d : BusDraw) (s : State) : (s.afterAnswer d).cmdOp = s.cmdOp := by
  unfold State.afterAnswer; split <;> rfl

theorem resume_devAddr {i : Instr} {k : Nat} {s t : State} (h : resume i k s = .next t) :
    t.devAddr = s.devAddr := by
  obtain ⟨q, r, rfl⟩ | ⟨r, rfl⟩ := resume_next h <;> rfl

/-- Settles O39, by cases on what one step can do. -/
theorem onlyResetWritesTheDeviceAddress : Obligations.OnlyResetWritesTheDeviceAddress := by
  unfold Obligations.OnlyResetWritesTheDeviceAddress
  intro s t h
  cases step_cases h with
  | reset d hr ht => rw [hr, ht]; rfl
  | nothing hq _ ht => rw [hq.2, ht]; rfl
  | frame hq _ _ _ _ _ ht => rw [hq.2, ht]; rfl
  | rejected hq _ _ _ _ _ _ _ _ ht => rw [hq.2, ht]; rfl
  | finished hq _ _ _ _ _ _ _ _ hc _ ht => rw [hq.2, ht]; exact hc.devAddr
  | started hq _ _ _ _ _ _ _ _ hc _ _ _ _ _ _ ht => rw [hq.2, ht]; exact hc.devAddr
  | failed hq _ _ _ _ _ ht => rw [hq.2, ht]; rfl
  | answered hq _ _ _ _ _ _ _ ht => rw [hq.2, resume_devAddr ht, afterAnswer_devAddr]; rfl
  | took hq _ ht => rw [hq.2, ht]; rfl

/-! ## The configuration registers -/

/-- The four configuration registers (10_state.md R22 to R25). -/
structure MotorConfig where
  irun : Nibble
  ihold : Nibble
  vmax : Nibble
  vmin : Nibble

def State.motorConfig (s : State) : MotorConfig := ⟨s.irun, s.ihold, s.vmax, s.vmin⟩

@[simp] theorem afterAnswer_motorConfig (d : BusDraw) (s : State) :
    (s.afterAnswer d).motorConfig = s.motorConfig := by
  unfold State.afterAnswer; split <;> rfl

theorem resume_motorConfig {i : Instr} {k : Nat} {s t : State} (h : resume i k s = .next t) :
    t.motorConfig = s.motorConfig := by
  obtain ⟨q, r, rfl⟩ | ⟨r, rfl⟩ := resume_next h <;> rfl

/-- What a setter that accepts its value makes of the configuration `c` (42_config.md R100 to R103, R105). -/
inductive SetterWrites (c c' : MotorConfig) : Instr → Prop
  | irun (v : Byte) (hv : c'.irun.toNat = v.toNat) (hc : c' = { c with irun := c'.irun }) :
    SetterWrites c c' (.setIrun v)
  | ihold (v : Byte) (hv : c'.ihold.toNat = v.toNat) (hc : c' = { c with ihold := c'.ihold }) :
    SetterWrites c c' (.setIhold v)
  | vmax (v : Byte) (hv : c'.vmax.toNat = v.toNat) (hc : c' = { c with vmax := c'.vmax }) :
    SetterWrites c c' (.setVmax v)
  | vmin (v : Byte) (hv : c'.vmin.toNat = v.toNat) (hc : c' = { c with vmin := c'.vmin }) :
    SetterWrites c c' (.setVmin v)
  | all (v1 v2 v3 v4 : Byte) (h1 : c'.irun.toNat = v1.toNat) (h2 : c'.ihold.toNat = v2.toNat)
    (h3 : c'.vmax.toNat = v3.toNat) (h4 : c'.vmin.toNat = v4.toNat) :
    SetterWrites c c' (.setMotorParam4 v1 v2 v3 v4)

theorem toNat_lowFour_of_inRange {v : Byte} (h : ¬ aboveFifteen v = true) : (lowFour v).toNat = v.toNat := by
  apply toNat_lowFour
  simpa [aboveFifteen] using h

/-- The accept part of a command writes the configuration as a setter does, or not at all. -/
theorem exec_motorConfig {i : Instr} {s t : State} (h : exec i s = .next t) :
    t.motorConfig = s.motorConfig ∨ SetterWrites s.motorConfig t.motorConfig i := by
  cases i with
  | setIrun v =>
    cases h
    split_ifs with hv
    · exact .inl rfl
    · exact .inr (.irun v (toNat_lowFour_of_inRange hv) rfl)
  | setIhold v =>
    cases h
    split_ifs with hv
    · exact .inl rfl
    · exact .inr (.ihold v (toNat_lowFour_of_inRange hv) rfl)
  | setVmax v =>
    cases h
    split_ifs with hv
    · exact .inl rfl
    · exact .inr (.vmax v (toNat_lowFour_of_inRange hv) rfl)
  | setVmin v =>
    cases h
    split_ifs with hv
    · exact .inl rfl
    · exact .inr (.vmin v (toNat_lowFour_of_inRange hv) rfl)
  | setMotorParam4 a b c d =>
    cases h
    split_ifs with hv
    · exact .inl rfl
    · simp only [Bool.or_eq_true, not_or] at hv
      obtain ⟨⟨⟨ha, hb⟩, hc⟩, hd⟩ := hv
      exact .inr (.all a b c d (toNat_lowFour_of_inRange ha) (toNat_lowFour_of_inRange hb)
        (toNat_lowFour_of_inRange hc) (toNat_lowFour_of_inRange hd))
  | burnNewAddress addr conf => cases h; split <;> exact .inl rfl
  | setMotorParam | hardStop | softStop | resetPosition | runInit | getFullStatus1 | getFullStatus2 | setPosition _
  | drive _ | getMotionStatus | getSwitch | getActualPosition | frameSetMotorParam _ _ _ _ | frameSetPosition _
  | frameHardStop | frameSoftStop | frameResetPosition | frameRunInit | frameGetFullStatus1 | frameGetFullStatus2
  | frameBurnAddress _ => cases h; exact .inl rfl

/-- A step without a reset keeps the configuration, or is the accept of a setter that writes it. -/
theorem step_motorConfig {s t : State} (h : step s = .next t) (hr : ∀ d, s.resetLine.head? ≠ some (some d)) :
    t.motorConfig = s.motorConfig ∨
    ∃ w i, s.hostWords.head? = some w ∧ s.phase = .idle ∧ t.accepted = s.accepted ++ [w] ∧
      decodeWord w = some i ∧ SetterWrites s.motorConfig t.motorConfig i := by
  cases step_cases h with
  | reset d hd => exact absurd (Option.join_eq_some_iff.1 hd) (hr d)
  | nothing _ _ ht => exact .inl (ht ▸ rfl)
  | frame _ _ _ _ _ _ ht => exact .inl (ht ▸ rfl)
  | rejected _ _ _ _ _ _ _ _ _ ht => exact .inl (ht ▸ rfl)
  | finished _ hp _ w ws hw i hi s' hc hx ht =>
    refine (exec_motorConfig hx).imp_right fun hs => ⟨w, i, by rw [hw]; rfl, hp, ?_, hi, hs⟩
    rw [ht]; exact hc.accepted
  | started _ hp _ w ws hw i hi s' hc hx _ _ _ _ _ ht =>
    refine (exec_motorConfig hx).imp_right fun hs => ⟨w, i, by rw [hw]; rfl, hp, ?_, hi, hs⟩
    rw [ht]; exact hc.accepted
  | failed _ _ _ _ _ _ ht => exact .inl (ht ▸ rfl)
  | answered _ _ _ _ _ _ _ _ ht => exact .inl (by rw [resume_motorConfig ht, afterAnswer_motorConfig]; rfl)
  | took _ _ ht => exact .inl (ht ▸ rfl)

/-- Settles O38: a setter writes its own registers, and no other event writes any. -/
theorem onlySettersAndResetChangeTheConfiguration : Obligations.OnlySettersAndResetChangeTheConfiguration := by
  unfold Obligations.OnlySettersAndResetChangeTheConfiguration
  intro s t h hr
  obtain hsame | ⟨w, i, hw, hp, ha, hi, hs⟩ := step_motorConfig h hr
  · exact ⟨fun hn => absurd (congrArg MotorConfig.irun hsame) hn, fun hn => absurd (congrArg MotorConfig.ihold hsame) hn,
      fun hn => absurd (congrArg MotorConfig.vmax hsame) hn, fun hn => absurd (congrArg MotorConfig.vmin hsame) hn⟩
  · cases hs with
    | irun v hv hc =>
      exact ⟨fun _ => ⟨w, hw, hp, ha, .inl ⟨v, hi, hv⟩⟩, fun hn => absurd (congrArg MotorConfig.ihold hc) hn,
        fun hn => absurd (congrArg MotorConfig.vmax hc) hn, fun hn => absurd (congrArg MotorConfig.vmin hc) hn⟩
    | ihold v hv hc =>
      exact ⟨fun hn => absurd (congrArg MotorConfig.irun hc) hn, fun _ => ⟨w, hw, hp, ha, .inl ⟨v, hi, hv⟩⟩,
        fun hn => absurd (congrArg MotorConfig.vmax hc) hn, fun hn => absurd (congrArg MotorConfig.vmin hc) hn⟩
    | vmax v hv hc =>
      exact ⟨fun hn => absurd (congrArg MotorConfig.irun hc) hn, fun hn => absurd (congrArg MotorConfig.ihold hc) hn,
        fun _ => ⟨w, hw, hp, ha, .inl ⟨v, hi, hv⟩⟩, fun hn => absurd (congrArg MotorConfig.vmin hc) hn⟩
    | vmin v hv hc =>
      exact ⟨fun hn => absurd (congrArg MotorConfig.irun hc) hn, fun hn => absurd (congrArg MotorConfig.ihold hc) hn,
        fun hn => absurd (congrArg MotorConfig.vmax hc) hn, fun _ => ⟨w, hw, hp, ha, .inl ⟨v, hi, hv⟩⟩⟩
    | all a b c d h1 h2 h3 h4 =>
      exact ⟨fun _ => ⟨w, hw, hp, ha, .inr ⟨a, b, c, d, hi, h1⟩⟩, fun _ => ⟨w, hw, hp, ha, .inr ⟨a, b, c, d, hi, h2⟩⟩,
        fun _ => ⟨w, hw, hp, ha, .inr ⟨a, b, c, d, hi, h3⟩⟩, fun _ => ⟨w, hw, hp, ha, .inr ⟨a, b, c, d, hi, h4⟩⟩⟩

/-! ## The script of the command in WAIT -/

/-- How many transactions a script has does not depend on the state. -/
theorem length_script_eq (i : Instr) (s s' : State) : (script i s).length = (script i s').length := by
  cases i <;> simp only [script, List.length_cons]

/-- No script has more than three transactions (41_sequencer.md R91). -/
theorem length_script_le (i : Instr) (s : State) : (script i s).length ≤ 3 := by
  cases i <;> simp [script]

/-- In WAIT the command has a script, whatever the values its bytes are computed from. -/
theorem Inv.exists_script {s : State} (hi : Inv s) (hp : s.phase = .wait) :
    ∃ i, s.command = some i ∧ ∀ s', script i s' ≠ [] := by
  obtain ⟨i, hc, hn⟩ := script_ne_nil_of_requestOk (hi.request hp)
  refine ⟨i, hc, fun s' hs' => hn ?_⟩
  rw [← List.length_eq_zero_iff, length_script_eq i s s', hs']
  rfl

/-- The command of a state goes on with its script, or completes. -/
theorem resume_of_command {s : State} {i : Instr} (hc : s.command = some i) (hn : script i s ≠ []) (k : Nat) :
    (∃ r, (script i s)[k + 1]? = some r ∧ resume i (k + 1) s = .next (s.issue (BitVec.ofNat 2 (k + 1)) r)) ∨
    ∃ data replug, resume i (k + 1) s = .next (s.finish data replug) := by
  obtain ⟨hissue, hfinish⟩ := resume_command i (k + 1) s hn k.succ_ne_zero
    fun r hr => argHalf_of_command (hr ▸ hc)
  cases hk : (script i s)[k + 1]? with
  | none => exact .inr (hfinish hk)
  | some r => exact .inl ⟨r, rfl, hissue r hk⟩

/-! ## Under the invariant no step stops -/

theorem exec_command_next {i : Instr} (h : i.isFrame = false) (s : State) : ∃ t, exec i s = .next t := by
  obtain ⟨e, -, -, he⟩ | ⟨s', -, hf⟩ | ⟨s', b, f, -, hs, -⟩ := exec_command i s h
  exacts [⟨_, he⟩, ⟨_, hf⟩, ⟨_, hs⟩]

theorem eventAccept_next (w : HostWord) (s : State) : ∃ t, eventAccept w s = .next t := by
  cases hd : decodeWord w with
  | none => exact ⟨_, eventAccept_illegal s hd⟩
  | some i => rw [eventAccept_legal s hd]; exact exec_command_next (tableRow_of_decodeCommand hd).2.2.2 _

theorem eventBusRsp_next {s : State} {i : Instr} (hc : s.command = some i) (hn : ∀ s', script i s' ≠ [])
    (d : BusDraw) : ∃ t, eventBusRsp d s = .next t := by
  by_cases hb : d.bad s
  · exact ⟨_, eventBusRsp_bad hb⟩
  · have hc' : (s.afterAnswer d).command = some i := by rw [afterAnswer_command, hc]
    rw [eventBusRsp_good hb, continueScript_eq hc']
    obtain ⟨r, -, hr⟩ | ⟨data, replug, hr⟩ := resume_of_command hc' (hn _) (s.afterAnswer d).seq.toNat
    exacts [⟨_, hr⟩, ⟨_, hr⟩]

theorem Inv.phaseEvent_next {s : State} (hi : Inv s) : ∃ t, phaseEvent s = .next t := by
  cases hp : s.phase with
  | idle =>
    cases hw : s.hostWords with
    | nil => exact ⟨_, phaseEvent_noWord hp hi.noSlot hw⟩
    | cons w ws => rw [phaseEvent_word hp hi.noSlot hw]; exact eventAccept_next w _
  | wait =>
    obtain ⟨i, hc, hn⟩ := hi.exists_script hp
    cases hd : s.busAnswers with
    | nil => exact ⟨_, phaseEvent_noAnswer hp hd⟩
    | cons d ds => rw [phaseEvent_answer hp hd]; exact eventBusRsp_next (s := s.answering ds) hc hn d
  | done => exact ⟨_, phaseEvent_done hp⟩

/-- The invariant does not speak of what the host, the bus agent and the reset line will still do. -/
theorem Inv.withInputs {s : State} (hi : Inv s) (ws : List HostWord) (ds : List BusDraw)
    (rl : List (Option SlaveAddr)) : Inv { s with hostWords := ws, busAnswers := ds, resetLine := rl } where
  noSlot := hi.noSlot
  request := hi.request
  gated := hi.gated
  lastIssue := hi.lastIssue
  response := hi.response
  lastComplete := hi.lastComplete
  lastIdle := hi.lastIdle
  legal := hi.legal
  opened := hi.opened
  serial := hi.serial
  taken := hi.taken
  taken_le := hi.taken_le
  completed_le := hi.completed_le

theorem Inv.ticked {s : State} (hi : Inv s) : Inv s.ticked := hi.withInputs _ _ _

theorem Inv.offering {s : State} (hi : Inv s) (ws : List HostWord) : Inv (s.offering ws) := hi.withInputs _ _ _

theorem Inv.answering {s : State} (hi : Inv s) (ds : List BusDraw) : Inv (s.answering ds) := hi.withInputs _ _ _

/-- Settles O44: in WAIT the command has a script, so an answer has a rule; no frame was placed; every accept ends. -/
theorem noStepStopsUnderTheInvariant : Obligations.NoStepStopsUnderTheInvariant := by
  unfold Obligations.NoStepStopsUnderTheInvariant
  intro s hi ho
  cases hr : s.resetLine.head?.join with
  | some d => exact ⟨_, step_reset ho hr⟩
  | none => rw [step_quiet ⟨ho, hr⟩]; exact hi.ticked.phaseEvent_next

end Sys2Proof.Machine

/-! SUPPORT. Every step keeps the invariant: a state inside an event, one lemma for each of the sequencer's
operations, and the step as their composition (10_state.md R31 to R39, 41_sequencer.md R86 to R94). -/

namespace Sys2Proof.Machine

/-! ## Histories -/

/-- A history of legal records in a legal order (20_memory.md R54). -/
structure SerialHistory (h : List Record) : Prop where
  legal : ∀ r ∈ h, r.legal = true
  opened : ∀ r ∈ h.head?, r.opens = true
  serial : h.IsChain fun a b => a.mayFollow b = true

/-- A record that may stand first and may follow the last one extends the history. -/
theorem SerialHistory.append {h : List Record} (hh : SerialHistory h) {r : Record} (hl : r.legal = true)
    (ho : h = [] → r.opens = true) (hf : ∀ p ∈ h.getLast?, p.mayFollow r = true) : SerialHistory (h ++ [r]) where
  legal := by
    intro q hq
    rcases List.mem_append.1 hq with hq | hq
    · exact hh.legal q hq
    · rw [List.mem_singleton.1 hq]; exact hl
  opened := by
    cases h with
    | nil => simpa using ho rfl
    | cons a as => simpa using hh.opened
  serial := List.isChain_append.2 ⟨hh.serial, .singleton r, by simpa using hf⟩

theorem mayFollow_issue {p : Record} (h : p ≠ .answer .err) (q : BusRequest) : p.mayFollow (.issue q) = true := by
  cases p with
  | answer a =>
    cases a with
    | err => exact absurd rfl h
    | ok | data _ => rfl
  | issue q => cases q <;> rfl
  | complete _ | take => rfl

theorem mayFollow_complete {p : Record} {r : Response} (h : r.status = .busError ∨ p ≠ .answer .err) :
    p.mayFollow (.complete r) = true := by
  cases p with
  | answer a =>
    cases a with
    | err => simpa [Record.mayFollow] using h
    | ok | data _ => rfl
  | issue q => cases q <;> rfl
  | complete _ | take => rfl

/-- The bus agent's answer fits the kind of the outstanding request (20_memory.md R41). -/
theorem mayFollow_answer (d : BusDraw) (s : State) :
    (Record.issue s.outstanding).mayFollow (.answer (d.answer s.reqKind)) = true := by
  unfold State.outstanding BusDraw.answer
  cases s.reqKind <;> cases d.fails <;> rfl

theorem Inv.serialHistory {s : State} (hi : Inv s) : SerialHistory s.history := ⟨hi.legal, hi.opened, hi.serial⟩

/-! ## A state inside an event -/

/-- What holds inside E_ACCEPT and E_BUSRSP, once the word is latched or the answer recorded: the accepted command
has neither a request outstanding nor a response. -/
structure InCommand (s : State) : Prop where
  noSlot : s.frameSlot = none
  history : SerialHistory s.history
  taken : s.history.countP Record.isTake = s.hostOut.length
  taken_le : s.history.countP Record.isTake ≤ s.history.countP Record.isComplete
  completed_lt : s.history.countP Record.isComplete < s.accepted.length

/-- The last record is no failed answer, so the command may go on. -/
def State.unfailed (s : State) : Prop := ∀ p ∈ s.history.getLast?, p ≠ .answer .err

theorem Inv.latch {s : State} (hi : Inv s) (w : HostWord) : InCommand (s.latch w) where
  noSlot := hi.noSlot
  history := hi.serialHistory
  taken := hi.taken
  taken_le := Nat.le_of_add_right_le hi.taken_le
  completed_lt := by simpa using Nat.lt_succ_of_le (Nat.le_of_add_right_le hi.completed_le)

/-- No command is half done in IDLE. -/
theorem Inv.unfailed_latch {s : State} (hi : Inv s) (hp : s.phase = .idle) (w : HostWord) : (s.latch w).unfailed := by
  rintro p hl rfl
  exact absurd (hi.lastIdle hp _ hl) (by decide)

theorem Inv.answered {s : State} (hi : Inv s) (hp : s.phase = .wait) (d : BusDraw) :
    InCommand (s.answered (d.answer s.reqKind)) where
  noSlot := hi.noSlot
  history := by
    have hl := hi.lastIssue hp
    refine hi.serialHistory.append rfl (fun hn => ?_) fun p hm => ?_
    · rw [hn] at hl; cases hl
    · rw [hl] at hm; cases hm; exact mayFollow_answer d s
  taken := by simpa [Record.isTake] using hi.taken
  taken_le := by
    have := hi.taken_le
    simp [Record.isTake, Record.isComplete]; omega
  completed_lt := by
    have := hi.completed_le
    simp [State.inWait, hp] at this
    simpa [Record.isComplete] using this

/-- RXBUF is no part of the claim, so neither is its write by a RECV. -/
theorem InCommand.receive {s : State} (h : InCommand s) (bytes : List Byte) : InCommand (s.receive bytes) :=
  ⟨h.noSlot, h.history, h.taken, h.taken_le, h.completed_lt⟩

theorem Inv.afterAnswer {s : State} (hi : Inv s) (hp : s.phase = .wait) {d : BusDraw} (hb : ¬ d.bad s) :
    InCommand (s.afterAnswer d) := by
  have h := hi.answered hp d
  rw [answer_good hb] at h
  unfold State.afterAnswer
  cases hk : s.reqKind with
  | send => rw [hk] at h; exact h
  | recv => rw [hk] at h; exact h.receive d.bytes

theorem unfailed_afterAnswer (d : BusDraw) (s : State) : (s.afterAnswer d).unfailed := by
  unfold State.afterAnswer State.unfailed
  split <;> simp

theorem InCommand.sameButConfig {s s' : State} (h : InCommand s) (hc : SameButConfig s s') : InCommand s' := by
  rw [hc.eq]
  exact ⟨h.noSlot, h.history, h.taken, h.taken_le, h.completed_lt⟩

theorem SameButConfig.unfailed {s s' : State} (hc : SameButConfig s s') (h : s.unfailed) : s'.unfailed := by
  rw [State.unfailed, hc.history]; exact h

/-! ## How an event ends -/

theorem InCommand.complete {s : State} (h : InCommand s) {r : Response} (hu : r.status = .busError ∨ s.unfailed)
    (hl : (Record.complete r).legal = true) (hr : (s.complete r).responseOk = true) : Inv (s.complete r) := by
  have hh : SerialHistory (s.complete r).history :=
    h.history.append hl (fun _ => rfl) fun p hp => mayFollow_complete (hu.imp_right fun hu => hu p hp)
  exact {
    noSlot := h.noSlot
    request := nofun
    gated := nofun
    lastIssue := nofun
    response := fun _ => hr
    lastComplete := fun _ => List.getLast?_concat
    lastIdle := nofun
    legal := hh.legal
    opened := hh.opened
    serial := hh.serial
    taken := by simpa [Record.isTake] using h.taken
    taken_le := by simpa [Record.isTake, Record.isComplete, State.inDone] using h.taken_le
    completed_le := by simpa [Record.isComplete, State.inWait] using h.completed_lt }

theorem legal_issue_script {i : Instr} {s : State} {k : Nat} {r : Req} (hr : (script i s)[k]? = some r)
    (a : SlaveAddr) : (Record.issue (r.onBus a)).legal = true := by
  cases r with
  | recv => rfl
  | send bytes =>
    obtain ⟨f, hf⟩ := script_send_frame hr
    simp [Record.legal, decodeFrame_of_encodeFrame hf]

theorem InCommand.issue {s : State} (h : InCommand s) {i : Instr} {k : BitVec 2} {r : Req} (hu : s.unfailed)
    (hc : s.command = some i) (hr : (script i s)[k.toNat]? = some r) (hg : s.burnGated = true) :
    Inv (s.issue k r) := by
  have hh : SerialHistory (s.issue k r).history :=
    h.history.append (legal_issue_script hr _) (fun _ => rfl) fun p hp => mayFollow_issue (hu p hp) _
  exact {
    noSlot := h.noSlot
    request := fun _ => requestOk_issue hc hr
    gated := fun _ => hg
    lastIssue := fun _ => by
      rw [outstanding_issue fun bytes hb => length_script_send (hb ▸ hr)]
      exact List.getLast?_concat
    response := nofun
    lastComplete := nofun
    lastIdle := nofun
    legal := hh.legal
    opened := hh.opened
    serial := hh.serial
    taken := by simpa [Record.isTake] using h.taken
    taken_le := by simpa [Record.isTake, Record.isComplete, State.inDone] using h.taken_le
    completed_le := by simpa [Record.isComplete, State.inWait] using h.completed_lt }

/-- A response without data and without the replug note is one every command may give. -/
theorem responseOk_complete_plain (e : Status) (s : State) : (s.complete ⟨e, 0, false⟩).responseOk = true := by
  simp [State.responseOk]

theorem InCommand.complete_plain {s : State} (h : InCommand s) {e : Status} (hu : e = .busError ∨ s.unfailed) :
    Inv (s.complete ⟨e, 0, false⟩) :=
  h.complete hu (by simp [Record.legal]) (responseOk_complete_plain e s)

/-! ## E_RESET and E_TAKE -/

/-- The last record of a state with the invariant is an answer in no phase. -/
theorem Inv.isAnswer_getLast {s : State} (hi : Inv s) : ∀ r ∈ s.history.getLast?, r.isAnswer = false := by
  intro r hr
  cases hp : s.phase with
  | idle => exact hi.lastIdle hp r hr
  | wait => rw [hi.lastIssue hp] at hr; cases hr; rfl
  | done => rw [hi.lastComplete hp] at hr; cases hr; rfl

theorem Inv.eventReset {s : State} (hi : Inv s) (d : SlaveAddr) : Inv (s.eventReset d) where
  noSlot := hi.noSlot
  request := nofun
  gated := nofun
  lastIssue := nofun
  response := nofun
  lastComplete := nofun
  lastIdle := fun _ => hi.isAnswer_getLast
  legal := hi.legal
  opened := hi.opened
  serial := hi.serial
  taken := hi.taken
  taken_le := Nat.le_of_add_right_le hi.taken_le
  completed_le := Nat.le_of_add_right_le hi.completed_le

theorem Inv.take {s : State} (hi : Inv s) (hp : s.phase = .done) : Inv s.take := by
  have hl := hi.lastComplete hp
  have hh : SerialHistory s.take.history := by
    refine hi.serialHistory.append rfl (fun hn => ?_) fun p hm => ?_
    · rw [hn] at hl; cases hl
    · rw [hl] at hm; cases hm; rfl
  exact {
    noSlot := hi.noSlot
    request := nofun
    gated := nofun
    lastIssue := nofun
    response := nofun
    lastComplete := nofun
    lastIdle := fun _ r hr => by
      rw [take_history, List.getLast?_concat] at hr; cases hr; rfl
    legal := hh.legal
    opened := hh.opened
    serial := hh.serial
    taken := by simpa [Record.isTake] using hi.taken
    taken_le := by simpa [Record.isTake, Record.isComplete, State.inDone, hp] using hi.taken_le
    completed_le := by simpa [Record.isComplete, State.inWait, hp] using hi.completed_le }

/-! ## E_ACCEPT -/

theorem burnGated_of_command {s : State} {i : Instr} (hc : s.command = some i)
    (hb : ∀ addr conf, i = .burnNewAddress addr conf → burnError s.devAddrByte addr conf = none) :
    s.burnGated = true := by
  unfold State.burnGated
  rw [hc]
  split
  · rename_i addr conf hi
    rw [hb addr conf (Option.some.inj hi)]; rfl
  · rfl

/-! ## E_BUSRSP -/

/-- CMD_OP of the command in execution, by its row of the opcode table (30_encoding.md R62). -/
theorem cmdOp_eq_of_command {s : State} {i : Instr} (hc : s.command = some i) {op : Byte}
    (hv : (tableRow i).value = op.toNat * 2 ^ 32) : s.cmdOp = op := by
  apply BitVec.eq_of_toNat_eq
  have hrow : (tableRow i).value = s.cmdOp.toNat * 2 ^ 32 := (tableRow_of_decodeCommand hc).2.1
  omega

/-- The end of a script answers what its command may answer (10_state.md R35). -/
theorem responseOk_resume {s t : State} {i : Instr} (hc : s.command = some i) {k : Nat}
    (h : resume i k s = .next t) (hp : t.phase = .done) : t.responseOk = true := by
  cases i with
  | setIrun _ | setIhold _ | setVmax _ | setVmin _ | frameSetMotorParam _ _ _ _ | frameSetPosition _ | frameHardStop
  | frameSoftStop | frameResetPosition | frameRunInit | frameGetFullStatus1 | frameGetFullStatus2 | frameBurnAddress _ =>
    cases h
  | setMotorParam | setMotorParam4 _ _ _ _ | hardStop | softStop | resetPosition | runInit | getFullStatus1
  | getFullStatus2 | setPosition _ => cases h; exact responseOk_complete_plain .ok s
  | drive r =>
    rw [resume, afterDrive.eq_def] at h
    split at h
    · cases h; cases hp
    · cases h; cases hp
    · cases h; exact responseOk_complete_plain .ok s
  | getMotionStatus =>
    have hop : s.cmdOp = 0x0F := cmdOp_eq_of_command hc rfl
    rw [resume, afterGetMotionStatus.eq_def] at h
    split at h
    · cases h; cases hp
    · have hlt : (decodeMotionStatus s.rxbuf).toNat % 65536 < 8 :=
        Nat.lt_of_le_of_lt (Nat.mod_le _ _) (decodeMotionStatus s.rxbuf).isLt
      cases h; simp [State.responseOk, hop, hlt]
  | getSwitch =>
    have hop : s.cmdOp = 0x10 := cmdOp_eq_of_command hc rfl
    rw [resume, afterGetSwitch.eq_def] at h
    split at h
    · cases h; cases hp
    · cases h; cases decodeSwitchState s.rxbuf <;> simp [State.responseOk, hop]
  | getActualPosition =>
    have hop : s.cmdOp = 0x11 := cmdOp_eq_of_command hc rfl
    rw [resume, afterGetActualPosition.eq_def] at h
    split at h
    · cases h; cases hp
    · cases h; simp [State.responseOk, hop]
  | burnNewAddress addr conf =>
    have hop : s.cmdOp = 0x12 := cmdOp_eq_of_command hc rfl
    cases h; simp [afterBurnNewAddress, State.responseOk, hop]

/-- A good answer: the next transaction of the script, or the command's response. -/
theorem InCommand.resume {s t : State} (h : InCommand s) (hu : s.unfailed) {i : Instr} (hc : s.command = some i)
    (hn : script i s ≠ []) (hg : s.burnGated = true) {k : Nat} (ht : resume i (k + 1) s = .next t) : Inv t := by
  obtain ⟨r, hr, he⟩ | ⟨data, replug, he⟩ := resume_of_command hc hn k
  · have hlt : k + 1 < (script i s).length := (List.getElem?_eq_some_iff.1 hr).1
    have hk : (BitVec.ofNat 2 (k + 1)).toNat = k + 1 := by
      have := length_script_le i s
      rw [BitVec.toNat_ofNat]; omega
    rw [he] at ht; cases ht
    exact h.issue hu hc (by rw [hk, hr]) hg
  · have hok := responseOk_resume hc he rfl
    rw [he] at ht; cases ht
    exact h.complete (.inr hu) rfl hok

theorem burnGated_afterAnswer (d : BusDraw) (s : State) : (s.afterAnswer d).burnGated = s.burnGated := by
  unfold State.afterAnswer; split <;> rfl

/-! ## The step -/

/-- Settles O43: each event puts the invariant's state inside a command, and each way an event ends restores it. -/
theorem everyStepKeepsTheInvariant : Obligations.EveryStepKeepsTheInvariant := by
  unfold Obligations.EveryStepKeepsTheInvariant
  intro s t hi h
  cases step_cases h with
  | reset d hr ht => rw [ht]; exact hi.ticked.eventReset d
  | nothing hq hp ht => rw [ht]; exact hi.ticked
  | frame hq hp bytes f hs => rw [hi.noSlot] at hs; cases hs
  | rejected hq hp hs w ws hw e he hb ht =>
    have hin := hi.ticked.offering ws
    rw [ht]; exact (hin.latch w).complete_plain (.inr (hin.unfailed_latch hp w))
  | finished hq hp hs w ws hw i hd s' hc hx ht =>
    have hin := hi.ticked.offering ws
    rw [ht]
    exact ((hin.latch w).sameButConfig hc).complete_plain (.inr (hc.unfailed (hin.unfailed_latch hp w)))
  | started hq hp hs w ws hw i hd s' hc hx bytes f hf hsc hburn ht =>
    have hin := hi.ticked.offering ws
    have hcmd : s'.command = some i := by rw [hc.command]; exact hd
    have hstep : (script i s')[(0 : BitVec 2).toNat]? = some (.send bytes) := by
      rw [← hsc, List.head?_eq_getElem?]; rfl
    have haddr : s'.devAddrByte = s.devAddrByte := by rw [State.devAddrByte, hc.devAddr]; rfl
    rw [ht]
    exact ((hin.latch w).sameButConfig hc).issue (hc.unfailed (hin.unfailed_latch hp w)) hcmd hstep
      (burnGated_of_command hcmd (by rw [haddr]; exact hburn))
  | failed hq hp d ds hd hb ht =>
    rw [ht]; exact ((hi.ticked.answering ds).answered hp d).complete_plain (.inl rfl)
  | answered hq hp d ds hd hb i hcmd ht =>
    have hin := hi.ticked.answering ds
    obtain ⟨j, hj, hn⟩ := hi.exists_script hp
    obtain rfl : i = j := Option.some.inj (hcmd.symm.trans hj)
    exact (hin.afterAnswer hp hb).resume (unfailed_afterAnswer d _) (by rw [afterAnswer_command]; exact hcmd) (hn _)
      (by rw [burnGated_afterAnswer]; exact hin.gated hp) ht
  | took hq hp ht => rw [ht]; exact hi.ticked.take hp

end Sys2Proof.Machine

/-! SUPPORT. What one step records, said once: the transactions a step may issue, and the order of its records
(20_memory.md R42, R54, 41_sequencer.md R86). -/

namespace Sys2Proof.Machine

/-- A transaction MSTEP may issue to the slave `a`: a RECV of 8 bytes or one of the nine frames (20_memory.md R42,
30_encoding.md R68). -/
def IssuedTo (a : SlaveAddr) (q : BusRequest) : Prop :=
  q = .recv a none 8 ∨ ∃ bytes i, q = .send a none bytes ∧ decodeFrame bytes = some i

theorem issuedTo_recv (a : SlaveAddr) : IssuedTo a (Req.recv.onBus a) := .inl rfl

theorem issuedTo_send {f : Instr} {bytes : List Byte} (h : encodeFrame f = some bytes) (a : SlaveAddr) :
    IssuedTo a ((Req.send bytes).onBus a) :=
  .inr ⟨bytes, f, rfl, decodeFrame_of_encodeFrame h⟩

/-- The records one step may add, with the phases that belong to each. -/
inductive StepRecords (s t : State) : Prop where
  | nothing (h : t.history = s.history)
  | issued (hp : s.phase = .idle) (hp' : t.phase = .wait) (q : BusRequest) (hq : IssuedTo s.devAddr q)
      (h : t.history = s.history ++ [.issue q])
  | completed (hp : s.phase = .idle) (hp' : t.phase = .done) (r : Response)
      (h : t.history = s.history ++ [.complete r])
  | answeredIssued (hp : s.phase = .wait) (hp' : t.phase = .wait) (a : Answer) (ha : a ≠ .err) (q : BusRequest)
      (hq : IssuedTo s.devAddr q) (h : t.history = s.history ++ [.answer a, .issue q])
  | answeredCompleted (hp : s.phase = .wait) (hp' : t.phase = .done) (a : Answer) (r : Response)
      (h : t.history = s.history ++ [.answer a, .complete r])
  | took (hp : s.phase = .done) (hp' : t.phase = .idle) (h : t.history = s.history ++ [.take])

theorem afterAnswer_history {d : BusDraw} {s : State} (hb : ¬ d.bad s) :
    (s.afterAnswer d).history = s.history ++ [.answer (d.answer s.reqKind)] := by
  rw [afterAnswer_eq hb]

theorem answer_ne_err {d : BusDraw} {s : State} (hb : ¬ d.bad s) : d.answer s.reqKind ≠ .err := by
  rw [answer_good hb]
  cases s.reqKind <;> exact nofun

/-- A good answer in WAIT is followed by the script's next transaction or by the completion. -/
theorem stepRecords_of_resume {s u t : State} {i : Instr} {k : Nat} {a : Answer} (ha : a ≠ .err)
    (hp : s.phase = .wait) (hd : u.devAddr = s.devAddr) (hh : u.history = s.history ++ [.answer a])
    (h : resume i k u = .next t) : StepRecords s t := by
  obtain hf | ⟨q, r, hi, hr⟩ | ⟨data, replug, hc⟩ := resume_outcome i k u
  · rw [hf] at h; cases h
  · rw [hi] at h; cases h
    have hq : IssuedTo u.devAddr (r.onBus u.devAddr) := by
      obtain rfl | ⟨bytes, f, rfl, hf⟩ := hr
      exacts [issuedTo_recv _, issuedTo_send hf _]
    exact .answeredIssued hp rfl a ha _ (hd ▸ hq) (by simp [hh, hd])
  · rw [hc] at h; cases h
    exact .answeredCompleted hp rfl a (okResponse data replug) (by simp [hh])

/-- Each event records nothing, its own record, or an answer and what follows it. -/
theorem step_records {s t : State} (h : step s = .next t) : StepRecords s t := by
  cases step_cases h with
  | reset d _ ht => exact .nothing (ht ▸ rfl)
  | nothing _ _ ht => exact .nothing (ht ▸ rfl)
  | frame _ hp bytes f _ hf ht => exact .issued hp (ht ▸ rfl) _ (issuedTo_send hf _) (ht ▸ rfl)
  | rejected _ hp _ _ _ _ e _ _ ht => exact .completed hp (ht ▸ rfl) (errorResponse e) (ht ▸ rfl)
  | finished _ hp _ w ws _ i _ s' hc _ ht =>
    exact .completed hp (ht ▸ rfl) (okResponse 0 false) (by rw [ht, finish_eq, complete_history, hc.history]; rfl)
  | started _ hp _ w ws _ i _ s' hc _ bytes f hf _ _ ht =>
    exact .issued hp (ht ▸ rfl) _ (issuedTo_send hf _) (by rw [ht, issue_history, hc.history, hc.devAddr]; rfl)
  | failed _ hp d ds _ _ ht =>
    exact .answeredCompleted hp (ht ▸ rfl) (d.answer s.reqKind) (errorResponse .busError) (by simp [ht])
  | answered _ hp d ds _ hb i _ ht =>
    have hb' : ¬ d.bad (s.ticked.answering ds) := hb
    exact stepRecords_of_resume (u := (s.ticked.answering ds).afterAnswer d) (answer_ne_err hb') hp
      (afterAnswer_devAddr d _) (afterAnswer_history hb') ht
  | took _ hp ht => exact .took hp (ht ▸ rfl) (ht ▸ rfl)

/-- Settles O40: of the records a step adds, the only transactions are those it may issue to DEV_ADDR. -/
theorem everyIssueIsOneOfTheNineFramesOrARecv : Obligations.EveryIssueIsOneOfTheNineFramesOrARecv := by
  unfold Obligations.EveryIssueIsOneOfTheNineFramesOrARecv
  intro s t h
  cases step_records h with
  | nothing hh => exact ⟨[], by rw [hh, List.append_nil], nofun⟩
  | issued _ _ q hq hh | answeredIssued _ _ _ _ q hq hh =>
    refine ⟨_, hh, fun q' hm => ?_⟩
    obtain rfl : q' = q := by simpa using hm
    exact hq
  | completed _ _ _ hh | answeredCompleted _ _ _ _ hh | took _ _ hh => exact ⟨_, hh, fun q hm => by simp at hm⟩

/-- Settles O41: the records a step adds, case by case. -/
theorem oneTransactionInFlight : Obligations.OneTransactionInFlight := by
  unfold Obligations.OneTransactionInFlight
  intro s t h
  cases step_records h with
  | nothing hh => exact .inl hh
  | issued hp hp' q _ hh => exact .inr (.inl ⟨hp, hp', q, hh⟩)
  | completed hp hp' r hh => exact .inr (.inr (.inl ⟨hp, hp', r, hh⟩))
  | answeredIssued hp hp' a ha q _ hh => exact .inr (.inr (.inr (.inl ⟨hp, hp', a, q, hh, ha⟩)))
  | answeredCompleted hp hp' a r hh => exact .inr (.inr (.inr (.inr (.inl ⟨hp, hp', a, r, hh⟩))))
  | took hp hp' hh => exact .inr (.inr (.inr (.inr (.inr ⟨hp, hp', hh⟩))))

end Sys2Proof.Machine

/-! SUPPORT. The encoding: words and frames against the decoder, the well-formedness check and the opcode table
(30_encoding.md R58 to R69). -/

namespace Sys2Proof

open Machine

/-- Settles O48: one round trip for each row of the opcode table. -/
theorem decodeOfEncodeIsTheInstruction : Obligations.DecodeOfEncodeIsTheInstruction := by
  unfold Obligations.DecodeOfEncodeIsTheInstruction
  intro i
  cases i with
  | setIrun v => exact Laws.RoundTrip.setIrun v
  | setIhold v => exact Laws.RoundTrip.setIhold v
  | setVmax v => exact Laws.RoundTrip.setVmax v
  | setVmin v => exact Laws.RoundTrip.setVmin v
  | setMotorParam => exact Laws.RoundTrip.setMotorParam
  | setMotorParam4 a b c d => exact Laws.RoundTrip.setMotorParam4 a b c d
  | hardStop => exact Laws.RoundTrip.hardStop
  | softStop => exact Laws.RoundTrip.softStop
  | resetPosition => exact Laws.RoundTrip.resetPosition
  | runInit => exact Laws.RoundTrip.runInit
  | getFullStatus1 => exact Laws.RoundTrip.getFullStatus1
  | getFullStatus2 => exact Laws.RoundTrip.getFullStatus2
  | setPosition t => exact Laws.RoundTrip.setPosition t
  | drive r => exact Laws.RoundTrip.drive r
  | getMotionStatus => exact Laws.RoundTrip.getMotionStatus
  | getSwitch => exact Laws.RoundTrip.getSwitch
  | getActualPosition => exact Laws.RoundTrip.getActualPosition
  | burnNewAddress addr conf => exact Laws.RoundTrip.burnNewAddress addr conf
  | frameSetMotorParam a b c d => exact Laws.RoundTrip.frameSetMotorParam a b c d
  | frameSetPosition t => exact Laws.RoundTrip.frameSetPosition t
  | frameHardStop => exact Laws.RoundTrip.frameHardStop
  | frameSoftStop => exact Laws.RoundTrip.frameSoftStop
  | frameResetPosition => exact Laws.RoundTrip.frameResetPosition
  | frameRunInit => exact Laws.RoundTrip.frameRunInit
  | frameGetFullStatus1 => exact Laws.RoundTrip.frameGetFullStatus1
  | frameGetFullStatus2 => exact Laws.RoundTrip.frameGetFullStatus2
  | frameBurnAddress bits => exact Laws.RoundTrip.frameBurnAddress bits

/-! ## Words up to ignored operand bits -/

theorem toNat_and_ones (arg : BitVec 32) (n : Nat) (hn : n ≤ 32) :
    (arg &&& BitVec.ofNat 32 (2 ^ n - 1)).toNat = arg.toNat % 2 ^ n := by
  have hlt : 2 ^ n - 1 < 2 ^ 32 := by
    have := Nat.pow_le_pow_right two_pos hn
    have := Nat.two_pow_pos n
    omega
  rw [BitVec.toNat_and, BitVec.toNat_ofNat, Nat.mod_eq_of_lt hlt, Nat.and_two_pow_sub_one_eq_mod]

/-- R60, format H8: the padded field is OPERAND with every other bit 0. -/
theorem pad_fieldByte0 (arg : BitVec 32) : 0#24 ++ fieldByte0 arg = arg &&& BitVec.ofNat 32 (2 ^ 8 - 1) := by
  apply BitVec.eq_of_toNat_eq
  rw [toNat_append_add, fieldByte0, toNat_extract, toNat_and_ones arg 8 (by decide), BitVec.toNat_ofNat]; omega

/-- R60, format H16. -/
theorem pad_fieldS16 (arg : BitVec 32) : 0#16 ++ fieldS16 arg = arg &&& BitVec.ofNat 32 (2 ^ 16 - 1) := by
  apply BitVec.eq_of_toNat_eq
  rw [toNat_append_add, fieldS16, toNat_extract, toNat_and_ones arg 16 (by decide), BitVec.toNat_ofNat]; omega

/-- R60, format HB. -/
theorem pad_burn (arg : BitVec 32) :
    0#23 ++ BitVec.ofBool (fieldConf arg) ++ fieldByte0 arg = arg &&& BitVec.ofNat 32 (2 ^ 9 - 1) := by
  apply BitVec.eq_of_toNat_eq
  rw [toNat_append_add, toNat_append_add, fieldByte0, toNat_extract, toNat_and_ones arg 9 (by decide),
    BitVec.toNat_ofNat, BitVec.toNat_ofBool, fieldConf, ← BitVec.testBit_toNat, Nat.toNat_testBit]; omega

/-- R60, format HP4: the four bytes are OPERAND. -/
theorem append_fieldBytes (arg : BitVec 32) :
    fieldByte3 arg ++ fieldByte2 arg ++ fieldByte1 arg ++ fieldByte0 arg = arg &&& BitVec.ofNat 32 (2 ^ 32 - 1) := by
  apply BitVec.eq_of_toNat_eq
  simp only [toNat_append_add, fieldByte0, fieldByte1, fieldByte2, fieldByte3, toNat_extract,
    toNat_and_ones arg 32 le_rfl]; omega

/-- The word of what a legal OP selects has that OP, and of OPERAND the bits its format names (R60). -/
theorem encodeWord_of_decodeCommand {op : Byte} {arg : BitVec 32} {i : Instr} (h : decodeCommand op arg = some i) :
    ∃ m, encodeWord i = some (wordOf op (arg &&& m)) := by
  have hop : op = BitVec.ofNat 8 op.toNat := by simp
  unfold decodeCommand at h
  split at h
  case h_19 => cases h
  all_goals
    rename_i hv
    rw [hv] at hop
    subst hop
    cases h
  case h_1 | h_2 | h_3 | h_4 => exact ⟨_, by rw [encodeWord, pad_fieldByte0]⟩
  case h_13 | h_14 => exact ⟨_, by rw [encodeWord, pad_fieldS16]⟩
  case h_6 => exact ⟨_, by rw [encodeWord, append_fieldBytes]⟩
  case h_18 => exact ⟨_, by rw [encodeWord, pad_burn]⟩
  all_goals exact ⟨0#32, by rw [encodeWord, BitVec.and_zero]⟩

theorem decodeWord_of_encodeWord {i : Instr} {w : HostWord} (h : encodeWord i = some w) : decodeWord w = some i := by
  rw [← decode_encode_of_word h]
  exact decodeOfEncodeIsTheInstruction i

/-- Settles O49: the frame decoder drops no byte, the word decoder only the bits its format ignores. -/
theorem encodeOfDecodeIsTheWord : Obligations.EncodeOfDecodeIsTheWord := by
  unfold Obligations.EncodeOfDecodeIsTheWord
  refine ⟨fun bytes i h => encodeFrame_of_decodeFrame h, fun w i h => ?_⟩
  obtain ⟨m, hv⟩ := encodeWord_of_decodeCommand h
  refine ⟨_, hv, decodeWord_of_encodeWord hv, opOf_wordOf _ _, ?_⟩
  rw [operandOf_wordOf, ← BitVec.and_assoc, BitVec.and_self]
  rfl

/-! ## Frames -/

/-- A byte whose high nibble is 0 (R68). -/
theorem toNat_joinNibbles_zero (lo : Nibble) : (joinNibbles 0 lo).toNat = lo.toNat := by
  rw [toNat_joinNibbles]; simp

theorem decodeFrame_eq_some_iff {bytes : List Byte} {i : Instr} :
    decodeFrame bytes = some i ↔ encodeFrame i = some bytes :=
  ⟨encodeFrame_of_decodeFrame, decodeFrame_of_encodeFrame⟩

theorem frameWellFormed_of_encodeFrame {i : Instr} {bytes : List Byte} (h : encodeFrame i = some bytes) :
    frameWellFormed bytes = true := by
  cases i with
  | frameSetMotorParam a b c d => rw [bytes_frameSetMotorParam] at h; cases h; rfl
  | frameSetPosition t => rw [bytes_frameSetPosition] at h; cases h; rfl
  | frameBurnAddress n =>
    rw [bytes_frameBurnAddress] at h; cases h
    revert n; decide
  | frameHardStop | frameSoftStop | frameResetPosition | frameRunInit | frameGetFullStatus1 | frameGetFullStatus2 =>
    cases h; decide
  | setIrun _ | setIhold _ | setVmax _ | setVmin _ | setMotorParam | setMotorParam4 _ _ _ _ | hardStop | softStop
  | resetPosition | runInit | getFullStatus1 | getFullStatus2 | setPosition _ | drive _ | getMotionStatus | getSwitch
  | getActualPosition | burnNewAddress _ _ => cases h

/-- R66: what a well-formed frame's opcode and length are. -/
theorem frameLength_eq_some {op : Byte} {n : Nat} (h : frameLength op = some n) :
    (op ∈ [(0x81 : Byte), 0x85, 0x86, 0x88, 0x8F, 0xFC] ∧ n = 1) ∨ (op = 0x8B ∧ n = 5) ∨ (op = 0x90 ∧ n = 5) ∨
      (op = 0x89 ∧ n = 8) := by
  unfold frameLength at h
  split_ifs at h with h1 h2 h3
  · exact .inl ⟨h1, (Option.some.inj h).symm⟩
  · simp only [List.mem_cons, List.not_mem_nil, or_false] at h2
    have hn := (Option.some.inj h).symm
    exact .inr (h2.elim (fun h2 => .inl ⟨h2, hn⟩) fun h2 => .inr (.inl ⟨h2, hn⟩))
  · exact .inr (.inr (.inr ⟨h3, (Option.some.inj h).symm⟩))

theorem exists_encodeFrame_of_frameWellFormed {bytes : List Byte} (h : frameWellFormed bytes = true) :
    ∃ i, encodeFrame i = some bytes := by
  cases bytes with
  | nil => cases h
  | cons op rest =>
  simp only [frameWellFormed, Bool.and_eq_true, beq_iff_eq, List.head?_cons, Option.bind_some] at h
  obtain ⟨hlen, hlit⟩ := h
  obtain ⟨hop, hn⟩ | ⟨rfl, hn⟩ | ⟨rfl, hn⟩ | ⟨rfl, hn⟩ := frameLength_eq_some hlen
  · obtain rfl : rest = [] := by simpa using hn
    simp only [List.mem_cons, List.not_mem_nil, or_false] at hop
    obtain ⟨h1, h2, h3, h4, h5, h6⟩ := bytes_single
    rcases hop with rfl | rfl | rfl | rfl | rfl | rfl
    exacts [⟨_, h5⟩, ⟨_, h1⟩, ⟨_, h3⟩, ⟨_, h4⟩, ⟨_, h2⟩, ⟨_, h6⟩]
  · match rest, hn with
    | [f1, f2, f3, f4], _ =>
      obtain ⟨rfl, rfl⟩ : f1 = 0xFF ∧ f2 = 0xFF := by simpa [reservedBytesLiteral] using hlit
      exact ⟨_, (bytes_frameSetPosition (joinBytes f3 f4)).trans (by rw [highByte_joinBytes, lowByte_joinBytes])⟩
  · match rest, hn with
    | [f1, f2, f3, f4], _ =>
      obtain ⟨⟨⟨rfl, rfl⟩, rfl⟩, hz⟩ : ((f1 = 0xFF ∧ f2 = 0xFF) ∧ f3 = 0x02) ∧ f4.toNat < 16 := by
        simpa [reservedBytesLiteral] using hlit
      have h4 : joinNibbles 0 (lowNibble f4) = f4 := by
        apply BitVec.eq_of_toNat_eq
        rw [toNat_joinNibbles_zero, lowNibble, toNat_extract]; omega
      exact ⟨_, (bytes_frameBurnAddress (lowNibble f4)).trans (by rw [h4])⟩
  · match rest, hn with
    | [f1, f2, f3, f4, f5, f6, f7], _ =>
      obtain ⟨⟨⟨⟨rfl, rfl⟩, rfl⟩, rfl⟩, rfl⟩ :
          (((f1 = 0xFF ∧ f2 = 0xFF) ∧ f5 = 0x00) ∧ f6 = 0x00) ∧ f7 = 0x00 := by
        simpa [reservedBytesLiteral] using hlit
      exact ⟨_, (bytes_frameSetMotorParam (highNibble f3) (lowNibble f3) (highNibble f4) (lowNibble f4)).trans
        (by rw [joinNibbles_of_nibbles, joinNibbles_of_nibbles])⟩

theorem frameWellFormed_iff (bytes : List Byte) : frameWellFormed bytes = true ↔ ∃ i, encodeFrame i = some bytes :=
  ⟨exists_encodeFrame_of_frameWellFormed, fun ⟨_, h⟩ => frameWellFormed_of_encodeFrame h⟩

/-- Settles O50: a word by its OP, a byte list because both sides say that it is some instruction's frame. -/
theorem decodeAcceptsExactlyTheWellFormed : Obligations.DecodeAcceptsExactlyTheWellFormed := by
  unfold Obligations.DecodeAcceptsExactlyTheWellFormed
  intro p
  rw [Bool.eq_iff_iff]
  cases p with
  | command w =>
    have hw := (decodeWord_eq_none_iff w).not
    rw [not_not, ← ne_eq, ← Option.isSome_iff_ne_none] at hw
    rw [decode, hw, Packet.wellFormed, opLegal, Bool.and_eq_true, decide_eq_true_iff, decide_eq_true_iff]
    rfl
  | frame bytes =>
    rw [decode, Packet.wellFormed, frameWellFormed_iff, Option.isSome_iff_exists]
    exact exists_congr fun i => decodeFrame_eq_some_iff

/-- Settles O17: the codec's bytes and the frame words' bytes, one by one; the lengths by well-formedness. -/
theorem codecFramesAreTheFrameWords : Obligations.CodecFramesAreTheFrameWords := by
  unfold Obligations.CodecFramesAreTheFrameWords
  obtain ⟨h1, h2, h3, h4, h5, h6⟩ := bytes_single
  refine ⟨fun a b c d => ?_, bytes_frameSetPosition, fun a => ?_, h1, h2, h3, h4, h5, h6, fun i bytes h => ?_⟩
  · rw [bytes_frameSetMotorParam, encodeSetMotorParam_eq]
  · rw [bytes_frameBurnAddress, encodeBurnAddress_eq]
  · have hw := frameWellFormed_of_encodeFrame h
    rw [frameWellFormed, Bool.and_eq_true, beq_iff_eq] at hw
    exact hw.1

/-! ## Bus traces -/

theorem cutTrace_frame {i : Instr} {bytes : List Byte} (h : encodeFrame i = some bytes) (fuel : Nat)
    (more : List Byte) : cutTrace (fuel + 1) (bytes ++ more) = (cutTrace fuel more).map (i :: ·) := by
  have hp := decodeFramePrefix_append h more
  cases hb : bytes ++ more with
  | nil => rw [hb] at hp; cases hp
  | cons b bs => rw [cutTrace, ← hb, hp]

/-- Settles O52, by induction on the list of frames. -/
theorem busTraceIsCutByFrameLength : Obligations.BusTraceIsCutByFrameLength := by
  unfold Obligations.BusTraceIsCutByFrameLength
  intro l h
  induction l with
  | nil => rfl
  | cons p l ih =>
    obtain ⟨hp, hl⟩ := List.forall_mem_cons.1 h
    rw [List.flatMap_cons, List.length_cons, cutTrace_frame hp, ih hl]
    rfl

/-! ## The opcode table -/

/-- R11: `W(F)` of the bytes of a frame word is the word. -/
theorem frameWordOf_bytesOfFrameWord (n : Nat) (w : BitVec (8 * n)) : frameWordOf (bytesOfFrameWord n w) = w.toNat := by
  induction n with
  | zero => simp [bytesOfFrameWord, frameWordOf, BitVec.eq_nil w]
  | succ n ih =>
    have hinit : (List.range n).map (fun i => w.extractLsb' (8 * (n + 1 - i) - 8) 8) =
        bytesOfFrameWord n (w.extractLsb' 8 (8 * n)) := by
      refine List.map_congr_left fun i hi => BitVec.eq_of_getLsbD_eq fun j hj => ?_
      have hi := List.mem_range.1 hi
      have hlt : 8 * (n - i) - 8 + j < 8 * n := by omega
      have hs : 8 * (n + 1 - i) - 8 + j = 8 + (8 * (n - i) - 8 + j) := by omega
      simp [hj, hlt, hs]
    have hw : w.toNat / 2 ^ 8 < 2 ^ (8 * n) := Nat.div_lt_of_lt_mul (by
      rw [← Nat.pow_add, Nat.add_comm 8]; exact w.isLt)
    rw [bytesOfFrameWord, List.range_succ, List.map_append, hinit, frameWordOf, List.foldl_append, ← frameWordOf, ih,
      toNat_extract, Nat.mod_eq_of_lt hw]
    simp only [List.map_cons, List.map_nil, List.foldl_cons, List.foldl_nil, toNat_extract,
      Nat.add_sub_cancel_left, Nat.mul_one, Nat.sub_self]
    omega

/-- A comparison under a mask, cut at bit `s`. -/
theorem and_eq_iff_cut (s w m v : Nat) :
    w &&& m = v ↔ w / 2 ^ s &&& m / 2 ^ s = v / 2 ^ s ∧ w % 2 ^ s &&& m % 2 ^ s = v % 2 ^ s := by
  rw [← Nat.and_div_two_pow, ← Nat.and_mod_two_pow]
  constructor
  · rintro rfl; exact ⟨rfl, rfl⟩
  · rintro ⟨h1, h2⟩
    rw [← Nat.div_add_mod (w &&& m) (2 ^ s), h1, h2, Nat.div_add_mod]

/-- A mask of every bit from bit `s` upwards compares what is left of bit `s`. -/
theorem and_high_iff {s n w v : Nat} (hw : w < 2 ^ (s + n)) :
    w &&& (2 ^ n - 1) * 2 ^ s = v * 2 ^ s ↔ w / 2 ^ s = v := by
  have hlt : w / 2 ^ s < 2 ^ n := Nat.div_lt_of_lt_mul (by rwa [← Nat.pow_add])
  have hpos := Nat.two_pow_pos s
  rw [and_eq_iff_cut s, Nat.mul_div_cancel _ hpos, Nat.mul_div_cancel _ hpos, Nat.mul_mod_left, Nat.mul_mod_left,
    Nat.and_two_pow_sub_one_eq_mod, Nat.mod_eq_of_lt hlt]
  simp

/-- The mask of FM, with the four nibbles free between bits 24 and 40 (R69). -/
theorem and_fm_iff {w : Nat} (hw : w < 2 ^ 64) :
    w &&& 0xFFFFFF0000FFFFFF = 0x89FFFF0000000000 ↔ w / 2 ^ 40 = 0x89FFFF ∧ w % 2 ^ 24 = 0 := by
  have hlt : w / 2 ^ 24 < 2 ^ (16 + 24) := by omega
  have hhigh : w / 2 ^ 24 &&& 0xFFFFFF0000 = 0x89FFFF0000 ↔ w / 2 ^ 24 / 2 ^ 16 = 0x89FFFF :=
    and_high_iff (v := 0x89FFFF) hlt
  have hlow : w % 2 ^ 24 &&& 0xFFFFFF = w % 2 ^ 24 % 2 ^ 24 := Nat.and_two_pow_sub_one_eq_mod _ 24
  rw [and_eq_iff_cut 24]
  norm_num at hhigh hlow ⊢
  rw [hhigh, hlow]
  omega

theorem eq_ofNat_of_and_byte {w : Byte} {v : Nat} (h : w.toNat &&& 0xFF = v) : w = BitVec.ofNat 8 v := by
  have hw : w.toNat &&& 0xFF = w.toNat % 2 ^ 8 := Nat.and_two_pow_sub_one_eq_mod _ 8
  apply BitVec.eq_of_toNat_eq
  rw [BitVec.toNat_ofNat]; omega

/-- A frame's word meets its row's match and mask (R69), and has its row's width. -/
theorem frame_meets_row {i : Instr} {bytes : List Byte} (h : encodeFrame i = some bytes) :
    (tableRow i).width = 8 * bytes.length ∧ frameWordOf bytes &&& (tableRow i).mask = (tableRow i).value := by
  cases i with
  | frameSetMotorParam a b c d =>
    cases h
    refine ⟨by simp [tableRow, bytesOfFrameWord], ?_⟩
    rw [frameWordOf_bytesOfFrameWord]
    refine (and_fm_iff (BitVec.isLt _)).2 ?_
    simp only [toNat_append_add, BitVec.toNat_ofNat]
    omega
  | frameSetPosition t =>
    cases h
    refine ⟨by simp [tableRow, bytesOfFrameWord], ?_⟩
    rw [frameWordOf_bytesOfFrameWord]
    refine (and_high_iff (s := 16) (n := 24) (v := 0x8BFFFF) (BitVec.isLt _)).2 ?_
    simp only [toNat_append_add, BitVec.toNat_ofNat]
    omega
  | frameBurnAddress bits =>
    cases h
    refine ⟨by simp [tableRow, bytesOfFrameWord], ?_⟩
    rw [frameWordOf_bytesOfFrameWord]
    refine (and_high_iff (s := 4) (n := 36) (v := 0x90FFFF020) (BitVec.isLt _)).2 ?_
    simp only [toNat_append_add, BitVec.toNat_ofNat]
    omega
  | frameHardStop | frameSoftStop | frameResetPosition | frameRunInit | frameGetFullStatus1 | frameGetFullStatus2 =>
    cases h; decide
  | setIrun _ | setIhold _ | setVmax _ | setVmin _ | setMotorParam | setMotorParam4 _ _ _ _ | hardStop | softStop
  | resetPosition | runInit | getFullStatus1 | getFullStatus2 | setPosition _ | drive _ | getMotionStatus | getSwitch
  | getActualPosition | burnNewAddress _ _ => cases h

/-- A number that meets a frame row is the word of a frame of that row. -/
theorem exists_frame_of_row {i : Instr} (hi : i.isFrame = true) {n : Nat} {w : BitVec (8 * n)}
    (hn : 8 * n = (tableRow i).width) (h : w.toNat &&& (tableRow i).mask = (tableRow i).value) :
    ∃ j, encodeFrame j = some (bytesOfFrameWord n w) ∧ tableRow j = tableRow i := by
  cases i with
  | frameSetMotorParam a b c d =>
    obtain rfl : n = 8 := by simp [tableRow] at hn; omega
    obtain ⟨hhigh, hlow⟩ := (and_fm_iff w.isLt).1 h
    refine ⟨.frameSetMotorParam (w.extractLsb' 36 4) (w.extractLsb' 32 4) (w.extractLsb' 28 4) (w.extractLsb' 24 4),
      congrArg (fun x => some (bytesOfFrameWord 8 x)) (BitVec.eq_of_toNat_eq ?_), rfl⟩
    simp only [toNat_append_add, BitVec.toNat_ofNat, toNat_extract]
    omega
  | frameSetPosition t =>
    obtain rfl : n = 5 := by simp [tableRow] at hn; omega
    have hhigh := (and_high_iff (s := 16) (n := 24) (v := 0x8BFFFF) w.isLt).1 h
    refine ⟨.frameSetPosition (w.extractLsb' 0 16),
      congrArg (fun x => some (bytesOfFrameWord 5 x)) (BitVec.eq_of_toNat_eq ?_), rfl⟩
    simp only [toNat_append_add, BitVec.toNat_ofNat, toNat_extract]
    omega
  | frameBurnAddress bits =>
    obtain rfl : n = 5 := by simp [tableRow] at hn; omega
    have hhigh := (and_high_iff (s := 4) (n := 36) (v := 0x90FFFF020) w.isLt).1 h
    refine ⟨.frameBurnAddress (w.extractLsb' 0 4),
      congrArg (fun x => some (bytesOfFrameWord 5 x)) (BitVec.eq_of_toNat_eq ?_), rfl⟩
    simp only [toNat_append_add, BitVec.toNat_ofNat, toNat_extract]
    omega
  | frameHardStop | frameSoftStop | frameResetPosition | frameRunInit | frameGetFullStatus1 | frameGetFullStatus2 =>
    obtain rfl : n = 1 := by simp [tableRow] at hn; omega
    obtain rfl := eq_ofNat_of_and_byte h
    exact ⟨_, by rfl, rfl⟩
  | setIrun _ | setIhold _ | setVmax _ | setVmin _ | setMotorParam | setMotorParam4 _ _ _ _ | hardStop | softStop
  | resetPosition | runInit | getFullStatus1 | getFullStatus2 | setPosition _ | drive _ | getMotionStatus | getSwitch
  | getActualPosition | burnNewAddress _ _ => cases hi

theorem opOf_eq_of_and {w : HostWord} {v : Nat} (h : w.toNat &&& 0xFF00000000 = v) :
    opOf w = BitVec.ofNat 8 (v / 2 ^ 32) := by
  apply BitVec.eq_of_toNat_eq
  have hm : w.toNat / 2 ^ 32 &&& 0xFF = w.toNat / 2 ^ 32 % 2 ^ 8 := Nat.and_two_pow_sub_one_eq_mod _ 8
  rw [opOf, toNat_extract, BitVec.toNat_ofNat, ← h, Nat.and_div_two_pow]
  norm_num at hm ⊢
  omega

/-- A word that meets a command's row decodes to a command of that row (R62). -/
theorem exists_command_of_row {i : Instr} (hi : i.isFrame = false) {w : HostWord}
    (h : w.toNat &&& (tableRow i).mask = (tableRow i).value) : ∃ j, decodeWord w = some j ∧ tableRow j = tableRow i := by
  cases i with
  | setIrun _ | setIhold _ | setVmax _ | setVmin _ | setMotorParam | setMotorParam4 _ _ _ _ | hardStop | softStop
  | resetPosition | runInit | getFullStatus1 | getFullStatus2 | setPosition _ | drive _ | getMotionStatus | getSwitch
  | getActualPosition | burnNewAddress _ _ =>
    rw [decodeWord, opOf_eq_of_and h]
    dsimp only [tableRow]
    exact ⟨_, rfl, rfl⟩
  | frameSetMotorParam _ _ _ _ | frameSetPosition _ | frameHardStop | frameSoftStop | frameResetPosition
  | frameRunInit | frameGetFullStatus1 | frameGetFullStatus2 | frameBurnAddress _ => cases hi

/-- No frame opens with a legal OP (R63, R68). -/
theorem opcode_of_encodeFrame {i : Instr} {op : Byte} {rest : List Byte} (h : encodeFrame i = some (op :: rest)) :
    0x12 < op.toNat := by
  cases i with
  | frameSetMotorParam a b c d => rw [bytes_frameSetMotorParam] at h; cases h; decide
  | frameSetPosition t => rw [bytes_frameSetPosition] at h; cases h; decide
  | frameBurnAddress n => rw [bytes_frameBurnAddress] at h; cases h; decide
  | frameHardStop | frameSoftStop | frameResetPosition | frameRunInit | frameGetFullStatus1 | frameGetFullStatus2 =>
    cases h; decide
  | setIrun _ | setIhold _ | setVmax _ | setVmin _ | setMotorParam | setMotorParam4 _ _ _ _ | hardStop | softStop
  | resetPosition | runInit | getFullStatus1 | getFullStatus2 | setPosition _ | drive _ | getMotionStatus | getSwitch
  | getActualPosition | burnNewAddress _ _ => cases h

/-- So no 40-bit number is both a frame and a host command (log 10). -/
theorem decodeWord_eq_none_of_frame {i : Instr} {w : HostWord} (h : encodeFrame i = some (bytesOfFrameWord 5 w)) :
    decodeWord w = none := by
  have hop : 0x12 < (opOf w).toNat := opcode_of_encodeFrame h
  rw [decodeWord_eq_none_iff]
  omega

/-- The widths the table's rows have (R58). -/
theorem width_tableRow (i : Instr) : (tableRow i).width = 8 ∨ (tableRow i).width = 40 ∨ (tableRow i).width = 64 := by
  cases i <;> simp [tableRow]

theorem width_of_command {i : Instr} (hi : i.isFrame = false) : (tableRow i).width = 40 := by
  cases i with
  | setIrun _ | setIhold _ | setVmax _ | setVmin _ | setMotorParam | setMotorParam4 _ _ _ _ | hardStop | softStop
  | resetPosition | runInit | getFullStatus1 | getFullStatus2 | setPosition _ | drive _ | getMotionStatus | getSwitch
  | getActualPosition | burnNewAddress _ _ => rfl
  | frameSetMotorParam _ _ _ _ | frameSetPosition _ | frameHardStop | frameSoftStop | frameResetPosition
  | frameRunInit | frameGetFullStatus1 | frameGetFullStatus2 | frameBurnAddress _ => cases hi

/-- How a number of the table is read: as a frame of its width, or, at 40 bits, as a host word (log 10). -/
theorem decodeTableWord_eq_some_iff {n w : Nat} (hn : n = 8 ∨ n = 40 ∨ n = 64) {j : Instr} :
    decodeTableWord n w = some j ↔
      encodeFrame j = some (bytesOfFrameWord (n / 8) (BitVec.ofNat _ w)) ∨
        (n = 40 ∧ decodeWord (BitVec.ofNat 40 w) = some j) := by
  rw [← decodeFrame_eq_some_iff]
  obtain rfl | rfl | rfl := hn
  · simp [decodeTableWord, packetOfTableWord, decode]
  · cases hf : decodeFrame (bytesOfFrameWord (40 / 8) (BitVec.ofNat _ w)) with
    | none => simp [decodeTableWord, packetOfTableWord, decode, hf]
    | some f =>
      have hw := decodeWord_eq_none_of_frame (encodeFrame_of_decodeFrame hf)
      simp [decodeTableWord, packetOfTableWord, decode, hf, hw]
  · simp [decodeTableWord, packetOfTableWord, decode]

/-- A host command's row is met by the words with its OP. -/
theorem command_meets_row {i : Instr} {w : HostWord} (h : decodeWord w = some i) :
    w.toNat &&& (tableRow i).mask = (tableRow i).value := by
  obtain ⟨-, hv, hm, -⟩ := tableRow_of_decodeCommand h
  rw [hv, hm]
  refine (and_high_iff (s := 32) (n := 8) w.isLt).2 ?_
  rw [opOf, toNat_extract]
  have := w.isLt
  omega

/-- Settles O51: a number that meets a row is a frame or a word of that row, and whatever is decoded meets its own. -/
theorem decoderAgreesWithTheOpcodeTable : Obligations.DecoderAgreesWithTheOpcodeTable := by
  unfold Obligations.DecoderAgreesWithTheOpcodeTable
  intro w i hw
  have hn := width_tableRow i
  have hw8 : (BitVec.ofNat (8 * ((tableRow i).width / 8)) w).toNat = w := by
    rw [BitVec.toNat_ofNat, Nat.mul_div_cancel' (by omega), Nat.mod_eq_of_lt hw]
  constructor
  · intro h
    cases hi : i.isFrame with
    | true =>
      obtain ⟨j, hj, hrow⟩ := exists_frame_of_row hi (w := BitVec.ofNat _ w) (Nat.mul_div_cancel' (by omega))
        (by rwa [hw8])
      exact ⟨j, (decodeTableWord_eq_some_iff hn).2 (.inl hj), hrow⟩
    | false =>
      have h40 := width_of_command hi
      have hw40 : (BitVec.ofNat 40 w).toNat = w := by rw [BitVec.toNat_ofNat, Nat.mod_eq_of_lt (h40 ▸ hw)]
      obtain ⟨j, hj, hrow⟩ := exists_command_of_row hi (w := BitVec.ofNat 40 w) (by rwa [hw40])
      exact ⟨j, (decodeTableWord_eq_some_iff hn).2 (.inr ⟨h40, hj⟩), hrow⟩
  · rintro ⟨j, hj, hrow⟩
    rw [← hrow]
    obtain hf | ⟨h40, hd⟩ := (decodeTableWord_eq_some_iff hn).1 hj
    · have h := (frame_meets_row hf).2
      rwa [frameWordOf_bytesOfFrameWord, hw8] at h
    · have h := command_meets_row hd
      rwa [BitVec.toNat_ofNat, Nat.mod_eq_of_lt (h40 ▸ hw)] at h

/-! ## Status frames -/

/-- Settles O14: each decode is the bits it names, and nothing else. -/
theorem statusDecodesIgnoreOtherBytes : Obligations.StatusDecodesIgnoreOtherBytes := by
  unfold Obligations.StatusDecodesIgnoreOtherBytes
  refine ⟨fun f g h => ?_, fun f g h => ?_, fun f g h1 h2 => ?_, fun f => ?_⟩
  · rw [decodeMotionStatus_eq, decodeMotionStatus_eq, ← BitVec.toNat_inj, toNat_extract, toNat_extract]
    omega
  · rw [decodeSwitchState_eq, decodeSwitchState_eq, h]
  · rw [decodeActualPosition_eq, decodeActualPosition_eq, h1, h2]
  · rw [decodeActualPosition_eq, BitVec.toInt_eq_toNat_cond, toNat_joinBytes]
    have h1 := f.b1.isLt
    have h2 := f.b2.isLt
    split_ifs <;> omega

/-! ## The machine -/

/-- Settles O6: an OP that selects no command leaves the step nothing but the completion. -/
theorem illegalWordCompletesAtOnce : Obligations.IllegalWordCompletesAtOnce := by
  unfold Obligations.IllegalWordCompletesAtOnce
  intro s w ws hq hp hs hw hop
  have hd : decodeWord w = none := by
    rw [decodeWord_eq_none_iff, opOf]
    rcases hop with h | h
    · rw [h]; decide
    · omega
  have hstep : step s = .next ((s.accepting w ws).raise .illegalCommand) := by
    rw [step_quiet hq, phaseEvent_word (s := s.ticked) hp hs hw, eventAccept_illegal _ hd]
    rfl
  exact ⟨_, hstep, rfl, completed_complete _ _⟩

theorem exec_sendIssued {i : Instr} {bytes : List Byte} (h : encodeFrame i = some bytes) (s : State) :
    ∃ t, exec i s = .next t ∧ SendIssued [] s.seq bytes s t :=
  ⟨_, exec_frame i s bytes h, sendIssued_issue _ _ _ (length_encodeFrame h)⟩

/-- Settles O34: a frame's meaning is one SEND of its own bytes. -/
theorem framesAreIssuedOnTheBus : Obligations.FramesAreIssuedOnTheBus := by
  unfold Obligations.FramesAreIssuedOnTheBus
  obtain ⟨h1, h2, h3, h4, h5, h6⟩ := bytes_single
  refine ⟨fun a b c d s => ?_, fun t s => ?_, fun bits s => ?_, exec_sendIssued h1, exec_sendIssued h2,
    exec_sendIssued h3, exec_sendIssued h4, exec_sendIssued h5, exec_sendIssued h6⟩
  · obtain ⟨t, ht, hs⟩ := exec_sendIssued (bytes_frameSetMotorParam a b c d) s
    exact ⟨t, ht, _, _, toNat_joinNibbles a b, toNat_joinNibbles c d, hs⟩
  · obtain ⟨u, hu, hs⟩ := exec_sendIssued (bytes_frameSetPosition t) s
    exact ⟨u, hu, _, _, toNat_half_eq_bytes t, hs⟩
  · obtain ⟨t, ht, hs⟩ := exec_sendIssued (bytes_frameBurnAddress bits) s
    exact ⟨t, ht, _, toNat_joinNibbles_zero bits, hs⟩

end Sys2Proof

/-! SUPPORT. Noninterference: what each event makes of the view depends on the view alone (30_encoding.md R61,
10_state.md R37, R39). -/

namespace Sys2Proof.Machine

/-! ## The view beside the phase -/

/-- What an observer sees whatever the phase is: the view without the sequencer's part. -/
def State.surface (s : State) : View := { s.view with phase := .idle }

theorem surface_of_view {s t : State} (h : s.view = t.view) : s.surface = t.surface :=
  congrArg (fun v : View => { v with phase := .idle }) h

theorem phaseView_of_view {s t : State} (h : s.view = t.view) : s.phaseView = t.phaseView := congrArg View.phase h

theorem view_of_surface {s t : State} (h : s.surface = t.surface) (hp : s.phaseView = t.phaseView) :
    s.view = t.view :=
  congrArg₂ (fun (v : View) p => { v with phase := p }) h hp

theorem phase_of_phaseView {s t : State} (h : s.phaseView = t.phaseView) : s.phase = t.phase := by
  unfold State.phaseView at h
  cases hs : s.phase <;> cases ht : t.phase <;> simp [hs, ht] at h ⊢

/-- In WAIT one sees the command, the script step and the request. -/
theorem phaseView_wait {s : State} (hp : s.phase = .wait) : s.phaseView = .wait s.command s.seq s.outstanding := by
  rw [State.phaseView, hp]

theorem phaseView_done {s : State} (hp : s.phase = .done) : s.phaseView = .done s.response := by
  rw [State.phaseView, hp]

theorem reqKind_of_outstanding {s t : State} (h : s.outstanding = t.outstanding) : s.reqKind = t.reqKind := by
  unfold State.outstanding at h
  cases hs : s.reqKind <;> cases ht : t.reqKind <;> simp [hs, ht] at h ⊢

/-! ## The sequencer's operations on two states with one surface -/

/-- The configuration registers written all at once. -/
def State.withConfig (c : MotorConfig) (s : State) : State :=
  { s with irun := c.irun, ihold := c.ihold, vmax := c.vmax, vmin := c.vmin }

section
variable {s t : State} (h : s.surface = t.surface)
include h

theorem devAddr_of_surface : s.devAddr = t.devAddr := congrArg View.devAddr h

theorem motorConfig_of_surface : s.motorConfig = t.motorConfig := by
  have hc : [s.irun, s.ihold, s.vmax, s.vmin] = [t.irun, t.ihold, t.vmax, t.vmin] := congrArg View.config h
  simpa [State.motorConfig] using hc

theorem surface_answering (ds : List BusDraw) : (s.answering ds).surface = (t.answering ds).surface :=
  congrArg (fun v : View => { v with busAnswers := ds }) h

theorem surface_offering {ws ws' : List HostWord} (hw : ws.map decodeWord = ws'.map decodeWord) :
    (s.offering ws).surface = (t.offering ws').surface :=
  congrArg₂ (fun (v : View) l => { v with words := l }) h hw

/-- Of a latched word one sees the command it decodes to. -/
theorem surface_latch {w w' : HostWord} (hw : decodeWord w = decodeWord w') :
    (s.latch w).surface = (t.latch w').surface := by
  have hv := congrArg₂ (fun (v : View) i => { v with accepted := v.accepted ++ [i] }) h hw
  simpa [State.surface, State.view] using hv

theorem surface_answered {a a' : Answer} (ha : a = a') : (s.answered a).surface = (t.answered a').surface :=
  congrArg₂ (fun (v : View) a => { v with history := v.history ++ [Record.answer a] }) h ha

theorem surface_withConfig {c c' : MotorConfig} (hc : c = c') :
    (s.withConfig c).surface = (t.withConfig c').surface :=
  congrArg₂ (fun (v : View) (c : MotorConfig) => { v with config := [c.irun, c.ihold, c.vmax, c.vmin] }) h hc

theorem surface_afterAnswer (hk : s.reqKind = t.reqKind) (d : BusDraw) :
    (s.afterAnswer d).surface = (t.afterAnswer d).surface := by
  unfold State.afterAnswer
  rw [← hk]
  cases s.reqKind with
  | send => exact surface_answered h rfl
  | recv => exact surface_answered h (a := .data d.bytes) rfl

theorem view_complete {r r' : Response} (hr : r = r') : (s.complete r).view = (t.complete r').view :=
  congrArg₂ (fun (v : View) r => { v with phase := .done r, history := v.history ++ [Record.complete r] }) h hr

/-- Of an issue one sees the command, the step and the request; the free values of TXBUF are hidden (log 3). -/
theorem view_issue (hc : s.command = t.command) (k : BitVec 2) {r r' : Req} (hr : r = r')
    (hl : ∀ bytes, r = .send bytes → bytes.length ≤ 8) : (s.issue k r).view = (t.issue k r').view := by
  subst hr
  refine view_of_surface ?_ ?_
  · exact congrArg (fun v : View => { v with history := v.history ++ [Record.issue (r.onBus v.devAddr)] }) h
  · have hc' : (s.issue k r).command = (t.issue k r).command := hc
    rw [phaseView_wait rfl, phaseView_wait rfl, hc', outstanding_issue hl, outstanding_issue hl,
      devAddr_of_surface h]
    rfl

theorem view_take (hr : s.response = t.response) : s.take.view = t.take.view :=
  congrArg₂ (fun (v : View) r =>
    { v with phase := .idle, history := v.history ++ [Record.take], hostOut := v.hostOut ++ [r] }) h hr

/-- A reset drops the answer to the outstanding request, so it must see the phase. -/
theorem view_eventReset (hp : s.phase = t.phase) (d : SlaveAddr) :
    (s.eventReset d).view = (t.eventReset d).view := by
  have ha : s.answersAfterReset = t.answersAfterReset := by
    have hb : s.busAnswers = t.busAnswers := congrArg View.busAnswers h
    rw [State.answersAfterReset, State.answersAfterReset, hp, hb]
  exact congrArg₂ (fun (v : View) ds =>
    { v with config := [15, 0, 8, 0], devAddr := d, phase := .idle, busAnswers := ds }) h ha

/-! ## E_ACCEPT -/

/-- A setter of one register: the new configuration `f` makes of the old one, or RANGE_ERROR. -/
theorem viewOutcome_setter (f : MotorConfig → MotorConfig) (v : Byte) :
    viewOutcome (.next (if aboveFifteen v then s.raise .rangeError
      else (s.withConfig (f s.motorConfig)).finish 0 false)) =
    viewOutcome (.next (if aboveFifteen v then t.raise .rangeError
      else (t.withConfig (f t.motorConfig)).finish 0 false)) := by
  split_ifs
  · exact congrArg Host.Outcome.next (view_complete h rfl)
  · exact congrArg Host.Outcome.next
      (view_complete (surface_withConfig h (congrArg f (motorConfig_of_surface h))) rfl)

/-- A command whose accept part sends one frame. -/
theorem viewOutcome_send (hc : s.command = t.command) (k : BitVec 2) {bytes bytes' : List Byte} (hb : bytes = bytes')
    (hl : bytes.length ≤ 8) :
    viewOutcome (.next (s.issue k (.send bytes))) = viewOutcome (.next (t.issue k (.send bytes'))) :=
  congrArg Host.Outcome.next (view_issue h hc k (congrArg Req.send hb) fun _ hr => by cases hr; exact hl)

theorem motorParamFrame_of_surface : s.motorParamFrame = t.motorParamFrame := by
  have hc := motorConfig_of_surface h
  simp only [State.motorConfig, MotorConfig.mk.injEq] at hc
  obtain ⟨h1, h2, h3, h4⟩ := hc
  rw [State.motorParamFrame, State.motorParamFrame, h1, h2, h3, h4]

/-- The accept part of a command reads the configuration, DEV_ADDR and its operands, and nothing else. -/
theorem viewOutcome_exec (hc : s.command = t.command) {i : Instr} (hi : i.isFrame = false) :
    viewOutcome (exec i s) = viewOutcome (exec i t) := by
  cases i with
  | setIrun v => exact viewOutcome_setter h (fun c => { c with irun := lowFour v }) v
  | setIhold v => exact viewOutcome_setter h (fun c => { c with ihold := lowFour v }) v
  | setVmax v => exact viewOutcome_setter h (fun c => { c with vmax := lowFour v }) v
  | setVmin v => exact viewOutcome_setter h (fun c => { c with vmin := lowFour v }) v
  | setMotorParam => exact viewOutcome_send h hc 0 (motorParamFrame_of_surface h) (Nat.le_of_ble_eq_true rfl)
  | setMotorParam4 a b c d =>
    have hs : (s.withMotorParams a b c d).surface = (t.withMotorParams a b c d).surface :=
      surface_withConfig h (c := ⟨lowFour a, lowFour b, lowFour c, lowFour d⟩) rfl
    simp only [exec, execSetMotorParam4]
    split_ifs
    · exact congrArg Host.Outcome.next (view_complete h rfl)
    · exact viewOutcome_send hs hc 0 (motorParamFrame_of_surface hs) (Nat.le_of_ble_eq_true rfl)
  | hardStop | softStop | resetPosition | runInit | getFullStatus1 | getFullStatus2 | setPosition _ | drive _
  | getMotionStatus | getSwitch | getActualPosition => exact viewOutcome_send h hc 0 rfl (Nat.le_of_ble_eq_true rfl)
  | burnNewAddress addr conf =>
    simp only [exec, execBurnNewAddress, State.devAddrByte, devAddr_of_surface h]
    split
    · exact congrArg Host.Outcome.next (view_complete h rfl)
    · exact viewOutcome_send h hc 0 rfl (Nat.le_of_ble_eq_true rfl)
  | frameSetMotorParam _ _ _ _ | frameSetPosition _ | frameHardStop | frameSoftStop | frameResetPosition
  | frameRunInit | frameGetFullStatus1 | frameGetFullStatus2 | frameBurnAddress _ => cases hi

/-- Two words that decode alike are accepted alike: an ignored operand bit reaches CMD_ARG only (R61). -/
theorem viewOutcome_eventAccept {w w' : HostWord} (hw : decodeWord w = decodeWord w') :
    viewOutcome (eventAccept w s) = viewOutcome (eventAccept w' t) := by
  have hl := surface_latch h hw
  cases hd : decodeWord w with
  | none =>
    rw [eventAccept_illegal s hd, eventAccept_illegal t (hw ▸ hd)]
    exact congrArg Host.Outcome.next (view_complete hl rfl)
  | some i =>
    rw [eventAccept_legal s hd, eventAccept_legal t (hw ▸ hd)]
    exact viewOutcome_exec hl hw (tableRow_of_decodeCommand hd).2.2.2

/-! ## E_BUSRSP -/

/-- After a good answer the script reads RXBUF only where the answer was one to a RECV. -/
theorem viewOutcome_resume {i : Instr} (hs : s.command = some i) (ht : t.command = some i) (k : Nat)
    (hr : s.rxbuf = t.rxbuf ∨ ∃ u bytes, (script i u)[k]? = some (.send bytes)) :
    viewOutcome (resume i (k + 1) s) = viewOutcome (resume i (k + 1) t) := by
  have hc : s.command = t.command := hs.trans ht.symm
  have hrecv : viewOutcome (.next (s.issue 1 .recv)) = viewOutcome (.next (t.issue 1 .recv)) :=
    congrArg Host.Outcome.next (view_issue h hc 1 rfl nofun)
  have hdone {d d' : Half} (hd : d = d') (p : Bool) :
      viewOutcome (.next (s.finish d p)) = viewOutcome (.next (t.finish d' p)) :=
    congrArg Host.Outcome.next (view_complete h (congrArg (okResponse · p) hd))
  cases i with
  | setIrun _ | setIhold _ | setVmax _ | setVmin _ | frameSetMotorParam _ _ _ _ | frameSetPosition _ | frameHardStop
  | frameSoftStop | frameResetPosition | frameRunInit | frameGetFullStatus1 | frameGetFullStatus2 | frameBurnAddress _ =>
    rfl
  | setMotorParam | setMotorParam4 _ _ _ _ | hardStop | softStop | resetPosition | runInit | getFullStatus1
  | getFullStatus2 | setPosition _ => exact hdone rfl false
  | burnNewAddress _ _ => exact hdone rfl true
  | getMotionStatus | getSwitch | getActualPosition =>
    cases k with
    | zero => exact hrecv
    | succ k =>
      have hx : s.rxbuf = t.rxbuf := hr.resolve_right fun ⟨u, bytes, hb⟩ => by cases k <;> simp [script] at hb
      exact hdone (by rw [hx]) false
  | drive r =>
    match k, hr with
    | 0, _ => exact hrecv
    | 1, hr =>
      have hx : s.rxbuf = t.rxbuf := hr.resolve_right fun ⟨u, bytes, hb⟩ => by cases hb
      have htarget : s.driveTarget = t.driveTarget := by
        rw [State.driveTarget, State.driveTarget, hx, argHalf_of_command hs, argHalf_of_command ht]
      exact viewOutcome_send h hc 2 (congrArg encodeSetPosition htarget) (Nat.le_of_ble_eq_true rfl)
    | k + 2, _ => exact hdone rfl false

end

/-- RXBUF after the answer is the one received, or the request was a SEND. -/
theorem rxbuf_afterAnswer {s t : State} (hk : s.reqKind = t.reqKind) (d : BusDraw) :
    (s.afterAnswer d).rxbuf = (t.afterAnswer d).rxbuf ∨ s.reqKind = .send := by
  unfold State.afterAnswer
  rw [← hk]
  cases s.reqKind with
  | send => exact .inr rfl
  | recv => exact .inl rfl

/-- In WAIT a SEND is a step of the script that sends, whatever its bytes are computed from. -/
theorem Inv.script_send {s : State} (hi : Inv s) (hp : s.phase = .wait) (hk : s.reqKind = .send) {i : Instr}
    (hc : s.command = some i) : ∃ bytes, (script i s)[s.seq.toNat]? = some (.send bytes) := by
  have h := hi.request hp
  unfold State.requestOk at h
  rw [hc] at h
  dsimp only at h
  split at h
  · cases h
  · exact ⟨_, by assumption⟩
  · simp [hk] at h

/-- The same answer to the same request, whatever RXBUF and the ignored operand bits held. -/
theorem viewOutcome_eventBusRsp {s t : State} (hi : Inv s) (hp : s.phase = .wait) (h : s.surface = t.surface)
    (hc : s.command = t.command) (hq : s.seq = t.seq) (ho : s.outstanding = t.outstanding) (d : BusDraw) :
    viewOutcome (eventBusRsp d s) = viewOutcome (eventBusRsp d t) := by
  have hk := reqKind_of_outstanding ho
  obtain ⟨i, hcs, -⟩ := hi.exists_script hp
  by_cases hb : d.bad s
  · have hb' : d.bad t := by rwa [BusDraw.bad, ← hk]
    rw [eventBusRsp_bad hb, eventBusRsp_bad hb', ← hk]
    exact congrArg Host.Outcome.next (view_complete (surface_answered h rfl) rfl)
  · have hb' : ¬ d.bad t := by rwa [BusDraw.bad, ← hk]
    have hs' : (s.afterAnswer d).command = some i := by rw [afterAnswer_command, hcs]
    have ht' : (t.afterAnswer d).command = some i := by rw [afterAnswer_command, ← hc, hcs]
    rw [eventBusRsp_good hb, eventBusRsp_good hb', continueScript_eq hs', continueScript_eq ht', afterAnswer_seq,
      afterAnswer_seq, ← hq]
    exact viewOutcome_resume (surface_afterAnswer h hk d) hs' ht' _
      ((rxbuf_afterAnswer hk d).imp_right fun hsend => ⟨s, hi.script_send hp hsend hcs⟩)

/-! ## The step -/

theorem viewOutcome_phaseEvent {s t : State} (hi : Inv s) (h : s.view = t.view) :
    viewOutcome (phaseEvent s) = viewOutcome (phaseEvent t) := by
  have hsurf := surface_of_view h
  have hpv := phaseView_of_view h
  have hpt := phase_of_phaseView hpv
  cases hp : s.phase with
  | idle =>
    rw [hp] at hpt
    have hst : t.frameSlot = none := (congrArg View.frameSlot h).symm.trans hi.noSlot
    have hw : s.hostWords.map decodeWord = t.hostWords.map decodeWord := congrArg View.words h
    cases hws : s.hostWords with
    | nil =>
      have hwt : t.hostWords = [] := by simpa [hws] using hw.symm
      rw [phaseEvent_noWord hp hi.noSlot hws, phaseEvent_noWord hpt.symm hst hwt]
      exact congrArg Host.Outcome.next h
    | cons w ws =>
      rw [hws] at hw
      obtain ⟨w', ws', hwt, hd, hds⟩ := List.map_eq_cons_iff.1 hw.symm
      rw [phaseEvent_word hp hi.noSlot hws, phaseEvent_word hpt.symm hst hwt]
      exact viewOutcome_eventAccept (surface_offering hsurf hds.symm) hd.symm
  | wait =>
    rw [hp] at hpt
    rw [phaseView_wait hp, phaseView_wait hpt.symm, PhaseView.wait.injEq] at hpv
    obtain ⟨hc, hq, ho⟩ := hpv
    have hbt : s.busAnswers = t.busAnswers := congrArg View.busAnswers h
    cases hds : s.busAnswers with
    | nil =>
      rw [phaseEvent_noAnswer hp hds, phaseEvent_noAnswer hpt.symm (hbt ▸ hds)]
      exact congrArg Host.Outcome.next h
    | cons d ds =>
      rw [phaseEvent_answer hp hds, phaseEvent_answer hpt.symm (hbt ▸ hds)]
      exact viewOutcome_eventBusRsp (hi.answering ds) hp (surface_answering hsurf ds) hc hq ho d
  | done =>
    rw [hp] at hpt
    rw [phaseView_done hp, phaseView_done hpt.symm, PhaseView.done.injEq] at hpv
    rw [phaseEvent_done hp, phaseEvent_done hpt.symm]
    exact congrArg Host.Outcome.next (view_take hsurf hpv)

/-- Settles O55: each event makes of the view what depends on the view alone; the invariant says that RXBUF is read
only after a RECV. -/
theorem stepsFromOneViewAgree : Obligations.StepsFromOneViewAgree := by
  unfold Obligations.StepsFromOneViewAgree
  intro s t hi h
  have ht : s.ticked.view = t.ticked.view := congrArg (fun v : View => { v with resetLine := v.resetLine.tail }) h
  have ho : s.otherMaster = t.otherMaster := congrArg View.otherMaster h
  have hl : s.resetLine = t.resetLine := congrArg View.resetLine h
  unfold step
  rw [← ho, ← hl]
  split
  · rfl
  · split
    · exact congrArg Host.Outcome.next
        (view_eventReset (surface_of_view ht) (phase_of_phaseView (phaseView_of_view ht)) _)
    · exact viewOutcome_phaseEvent hi.ticked ht

/-! ## Runs -/

/-- Outcomes that look alike are two states with one view, or the same stop. -/
theorem viewOutcome_eq_cases {o o' : Host.Outcome State Fault Refusal} (h : viewOutcome o = viewOutcome o') :
    (∃ s t, o = .next s ∧ o' = .next t ∧ s.view = t.view) ∨ (o = o' ∧ ∀ s, o ≠ .next s) := by
  cases o with
  | next s =>
    cases o' with
    | next t => exact .inl ⟨s, t, rfl, rfl, Host.Outcome.next.inj h⟩
    | fault _ | refused _ => cases h
  | fault r =>
    cases o' with
    | fault _ => cases h; exact .inr ⟨rfl, by simp⟩
    | next _ | refused _ => cases h
  | refused r =>
    cases o' with
    | refused _ => cases h; exact .inr ⟨rfl, by simp⟩
    | next _ | fault _ => cases h

/-- Settles O45, by induction on the length of the run: the step keeps the invariant and the agreement. -/
theorem hiddenStateAndIgnoredBitsAreUnobservable : Obligations.HiddenStateAndIgnoredBitsAreUnobservable := by
  unfold Obligations.HiddenStateAndIgnoredBitsAreUnobservable
  intro n
  induction n with
  | zero => exact fun s t _ h => congrArg Host.Outcome.next h
  | succ n ih =>
    intro s t hi h
    obtain ⟨s', t', hs, ht, hv⟩ | ⟨hst, hstop⟩ := viewOutcome_eq_cases (stepsFromOneViewAgree s t hi h)
    · rw [run_succ n hs, run_succ n ht]
      exact ih s' t' (everyStepKeepsTheInvariant s s' hi hs) hv
    · have hst' : core.step s = core.step t := hst
      cases hs : core.step s with
      | next u => exact absurd hs (hstop u)
      | fault _ | refused _ => simp only [Host.Core.run, ← hst', hs]

end Sys2Proof.Machine

/-! SUPPORT. The codec's laws: its frames byte by byte, and what its decodes read (40_codec.md R76 to R85). -/

namespace Sys2Proof.Machine

/-! ## Command frames -/

/-- Settles O11: each packed byte is its two nibbles side by side. -/
theorem setMotorParamFrameBytes : Obligations.SetMotorParamFrameBytes := by
  unfold Obligations.SetMotorParamFrameBytes
  intro irun ihold vmax vmin
  exact ⟨_, _, encodeSetMotorParam_eq irun ihold vmax vmin, toNat_joinNibbles irun ihold, toNat_joinNibbles vmax vmin⟩

/-- Settles O12: the two bytes are the target's own. -/
theorem setPositionFrameBytes : Obligations.SetPositionFrameBytes := by
  unfold Obligations.SetPositionFrameBytes
  exact fun target => ⟨_, _, encodeSetPosition_eq target, toNat_half_eq_bytes target⟩

theorem getLsbD_otpBits (a : Byte) {i : Nat} (hi : i < 4) : (otpBits a).getLsbD i = a.getLsbD (i + 1) := by
  rw [otpBits_eq, BitVec.getLsbD_extractLsb', decide_eq_true hi, Bool.true_and, Nat.add_comm]

/-- Settles O16: the four bits are a field of the address, and the burn frame's last byte has nothing above them. -/
theorem burnFrameCarriesTheOtpBits : Obligations.BurnFrameCarriesTheOtpBits := by
  unfold Obligations.BurnFrameCarriesTheOtpBits
  refine ⟨fun a i hi => getLsbD_otpBits a hi, fun a => ?_⟩
  have hf : (joinNibbles 0 (otpBits a)).toNat = (otpBits a).toNat := toNat_joinNibbles_zero _
  exact ⟨_, encodeBurnAddress_eq a, hf, hf.trans (toNat_otpBits a)⟩

/-! ## Reading back -/

theorem shiftRight_four_eq_highNibble (x : Byte) : x >>> 4 = (highNibble x).setWidth 8 := by
  apply BitVec.eq_of_toNat_eq
  rw [BitVec.toNat_ushiftRight, Nat.shiftRight_eq_div_pow, BitVec.toNat_setWidth, highNibble, toNat_extract]
  omega

theorem and_fifteen_eq_lowNibble (x : Byte) : x &&& 0xF = (lowNibble x).setWidth 8 := by
  have hm : (x &&& 0xF).toNat = x.toNat % 16 := Nat.and_two_pow_sub_one_eq_mod x.toNat 4
  apply BitVec.eq_of_toNat_eq
  rw [hm, BitVec.toNat_setWidth, lowNibble, toNat_extract]
  omega

/-- R85, law 1, for one packed byte. -/
theorem nibbles_of_joinNibbles (hi lo : Nibble) :
    joinNibbles hi lo >>> 4 = hi.setWidth 8 ∧ joinNibbles hi lo &&& 0xF = lo.setWidth 8 := by
  rw [shiftRight_four_eq_highNibble, and_fifteen_eq_lowNibble, highNibble_joinNibbles, lowNibble_joinNibbles]
  exact ⟨rfl, rfl⟩

/-- R85, law 2: a buffer with the target's two bytes in its bytes 1 and 2 holds the target. -/
theorem decodeActualPosition_of_bytes {t : Half} {f : Buf} (h1 : t.extractLsb' 8 8 = f.b1)
    (h2 : t.extractLsb' 0 8 = f.b2) : decodeActualPosition f = t.toInt := by
  rw [decodeActualPosition_eq, ← h1, ← h2, joinBytes_of_bytes]

/-- R85, law 3. -/
theorem toNat_decodeMotionStatus (f : Buf) : (decodeMotionStatus f).toNat = f.b5.toNat / 32 := by
  rw [decodeMotionStatus_eq, toNat_extract]
  omega

/-- R85, law 3. -/
theorem decodeSwitchState_eq_true_iff (f : Buf) : decodeSwitchState f = true ↔ f.b5.toNat / 16 % 2 = 1 := by
  rw [decodeSwitchState_eq, BitVec.getLsbD, Nat.testBit_eq_decide_div_mod_eq, decide_eq_true_iff]

/-- Settles O13: the FM frame's nibbles, the position and the two status fields, each law by its own lemma. -/
theorem codecLawsHold : Obligations.CodecLawsHold := by
  unfold Obligations.CodecLawsHold
  refine ⟨fun a b c d => ?_, fun t f h1 h2 => ?_, fun f => ?_⟩
  · rw [encodeSetMotorParam_eq]
    exact ⟨⟨_, rfl, nibbles_of_joinNibbles a b⟩, ⟨_, rfl, nibbles_of_joinNibbles c d⟩⟩
  · rw [encodeSetPosition_eq] at h1 h2
    exact decodeActualPosition_of_bytes (Option.some.inj h1) (Option.some.inj h2)
  · exact ⟨toNat_decodeMotionStatus f, decodeSwitchState_eq_true_iff f⟩

/-! ## The names of the motion status -/

/-- Two values with one name are equal: R80's table has eight rows, no two with the same name. -/
theorem motionState_injective : Function.Injective motionState := by
  unfold Function.Injective
  decide

/-- Settles O15: the table row by row, and no name twice. -/
theorem motionStatusNames : Obligations.MotionStatusNames := by
  unfold Obligations.MotionStatusNames
  exact ⟨rfl, rfl, rfl, rfl, rfl, rfl, rfl, rfl, fun _ _ h => motionState_injective h⟩

end Sys2Proof.Machine

/-! SUPPORT. The sequencer: what an accept and an answer end in, and runs of whole commands and whole programs
(41_sequencer.md R86 to R99). -/

namespace Sys2Proof.Machine

/-! ## E_ACCEPT -/

/-- In IDLE with a word offered the step is E_ACCEPT. -/
theorem step_accept {s : State} {w : HostWord} {ws : List HostWord} (hq : s.quiet) (hp : s.phase = .idle)
    (hs : s.frameSlot = none) (hw : s.hostWords = w :: ws) : step s = eventAccept w (s.ticked.offering ws) := by
  rw [step_quiet hq, phaseEvent_word (s := s.ticked) hp hs hw]

/-- Settles O4: the accepted word's instruction and the placed frame's are what the step executes. -/
theorem stepRunsTheDecodedInstruction : Obligations.StepRunsTheDecodedInstruction := by
  unfold Obligations.StepRunsTheDecodedInstruction
  refine ⟨fun s w ws i hq hp hs hw hi => ?_, fun s bytes i hq hp hs hi => ?_⟩
  · rw [step_accept hq hp hs hw, eventAccept_legal _ hi]
    rfl
  · rw [step_quiet hq, phaseEvent_frame (s := s.ticked) hp hs, eventFrame, hi]
    rfl

theorem SameButConfig.eq_withConfig {s s' : State} (h : SameButConfig s s') : s' = s.withConfig s'.motorConfig := h

/-- An accept writes at most configuration registers, then completes without data or issues transaction 0 of its
command's script, a SEND. -/
theorem eventAccept_outcome (w : HostWord) (s : State) :
    ∃ c, (∃ e, eventAccept w s = .next (((s.latch w).withConfig c).complete ⟨e, 0, false⟩)) ∨
      ∃ i bytes, decodeWord w = some i ∧ script i ((s.latch w).withConfig c) ≠ [] ∧
        eventAccept w s = .next (((s.latch w).withConfig c).issue 0 (.send bytes)) := by
  cases hi : decodeWord w with
  | none => exact ⟨(s.latch w).motorConfig, .inl ⟨_, eventAccept_illegal s hi⟩⟩
  | some i =>
    rw [eventAccept_legal s hi]
    obtain ⟨e, -, -, hx⟩ | ⟨s', hc, hx⟩ | ⟨s', bytes, f, hc, hx, hsc, -⟩ :=
      exec_command i (s.latch w) (tableRow_of_decodeCommand hi).2.2.2
    · exact ⟨(s.latch w).motorConfig, .inl ⟨e, hx⟩⟩
    · exact ⟨s'.motorConfig, .inl ⟨.ok, hc.eq_withConfig ▸ hx⟩⟩
    · refine ⟨s'.motorConfig, .inr ⟨i, bytes, rfl, ?_, hc.eq_withConfig ▸ hx⟩⟩
      rw [← hc.eq_withConfig]
      intro hn
      rw [hn] at hsc
      cases hsc

/-- Settles O5: by the three ways an accept part ends. -/
theorem everyAcceptEndsInDoneOrWait : Obligations.EveryAcceptEndsInDoneOrWait := by
  unfold Obligations.EveryAcceptEndsInDoneOrWait
  intro s w ws hq hp hs hw
  have hstep := step_accept hq hp hs hw
  have hlegal : ∀ {t}, step s = .next t → 1 ≤ (opOf w).toNat ∧ (opOf w).toNat ≤ 0x12 →
      ∃ i, decodeWord w = some i ∧ exec i (State.latch w (s.ticked.offering ws)) = .next t := by
    intro t ht hop
    obtain ⟨i, hi⟩ := Option.ne_none_iff_exists'.1 (mt (decodeWord_eq_none_iff w).1 (not_not_intro hop))
    exact ⟨i, hi, by rw [← eventAccept_legal _ hi, ← hstep, ht]⟩
  have hillegal : ∀ {t}, step s = .next t → ¬(1 ≤ (opOf w).toNat ∧ (opOf w).toNat ≤ 0x12) →
      t.phase = .done ∧ t.rspStatus = .illegalCommand := by
    intro t ht hop
    rw [hstep, eventAccept_illegal _ ((decodeWord_eq_none_iff w).2 hop)] at ht
    cases ht
    exact ⟨rfl, rfl⟩
  have hout := eventAccept_outcome w (s.ticked.offering ws)
  rw [← hstep] at hout
  obtain ⟨c, ⟨e, ht⟩ | ⟨i, bytes, -, -, ht⟩⟩ := hout
  · refine ⟨_, ht, rfl, rfl, rfl, rfl, hlegal ht, hillegal ht, ?_⟩
    by_cases he : e = .ok
    · subst he
      exact .inr (.inl ⟨rfl, rfl, rfl⟩)
    · exact .inl ⟨e, he, rfl, rfl, rfl⟩
  · exact ⟨_, ht, rfl, rfl, rfl, rfl, hlegal ht, hillegal ht, .inr (.inr ⟨rfl, rfl, bytes, rfl⟩)⟩

/-! ## What goes on around a command -/

/-- What a command leaves as it is from its accept to its completion, the ticks of the reset line aside. -/
structure Around where
  devAddr : SlaveAddr
  hostWords : List HostWord
  resetLine : List (Option SlaveAddr)
  otherMaster : Bool
  frameSlot : Option (List Byte)
  accepted : List HostWord
  hostOut : List Response

def State.around (s : State) : Around :=
  ⟨s.devAddr, s.hostWords, s.resetLine, s.otherMaster, s.frameSlot, s.accepted, s.hostOut⟩

theorem SameButConfig.around {s s' : State} (h : SameButConfig s s') : s'.around = s.around := by
  rw [h.eq]; rfl

@[simp] theorem afterAnswer_around (d : BusDraw) (s : State) : (s.afterAnswer d).around = s.around := by
  unfold State.afterAnswer; split <;> rfl

@[simp] theorem afterAnswer_busAnswers (d : BusDraw) (s : State) : (s.afterAnswer d).busAnswers = s.busAnswers := by
  unfold State.afterAnswer; split <;> rfl

theorem resume_around {i : Instr} {k : Nat} {s t : State} (h : resume i k s = .next t) : t.around = s.around := by
  obtain ⟨q, r, rfl⟩ | ⟨r, rfl⟩ := resume_next h <;> rfl

/-- A good answer leaves what is around the command, but for this step's entry of the reset line. -/
theorem around_of_answered {i : Instr} {k : Nat} {d : BusDraw} {ds : List BusDraw} {s t : State}
    (h : resume i k ((s.ticked.answering ds).afterAnswer d) = .next t) : t.around = s.ticked.around := by
  rw [resume_around h, afterAnswer_around]
  rfl

/-- Settles O7: no event but E_ACCEPT touches the offered or the accepted words. -/
theorem offeredWordsWaitWhileBusy : Obligations.OfferedWordsWaitWhileBusy := by
  unfold Obligations.OfferedWordsWaitWhileBusy
  intro s t hp h
  cases step_cases h with
  | reset _ _ ht | nothing _ _ ht | failed _ _ _ _ _ _ ht | took _ _ ht => subst ht; exact ⟨rfl, rfl⟩
  | frame _ hi | rejected _ hi | finished _ hi | started _ hi => exact absurd hi hp
  | answered _ _ _ _ _ _ _ _ ht =>
    have ha := around_of_answered ht
    exact ⟨congrArg Around.hostWords ha, congrArg Around.accepted ha⟩

/-! ## E_BUSRSP -/

/-- A good answer writes RXBUF if the request was a RECV, and is recorded. -/
theorem afterAnswer_eq_answered {d : BusDraw} {s : State} (h : ¬ d.bad s) :
    s.afterAnswer d = (if s.reqKind = .recv then State.receive d.bytes s else s).answered (d.answer s.reqKind) := by
  rw [answer_good h, State.afterAnswer]
  cases s.reqKind <;> rfl

theorem script_answered (i : Instr) (a : Answer) (s : State) : script i (s.answered a) = script i s := by
  cases i <;> rfl

theorem issued_issue_answered (a : Answer) (k : BitVec 2) (r : Req) (s : State)
    (h : ∀ bytes, r = .send bytes → bytes.length ≤ 8) : Issued [.answer a] k r s ((s.answered a).issue k r) := by
  cases r with
  | send bytes => exact sendIssued_issue_answered a k bytes s (h bytes rfl)
  | recv => exact recvIssued_issue_answered a k s

/-- Settles O35: the answer is recorded, and the script goes on from the state it left. -/
theorem goodAnswerRunsTheNextScriptStep : Obligations.GoodAnswerRunsTheNextScriptStep := by
  unfold Obligations.GoodAnswerRunsTheNextScriptStep
  intro s d i hc hn hf hl
  have hb : ¬ d.bad s := by
    rintro (hf' | ⟨hk, hl'⟩)
    · rw [hf] at hf'; cases hf'
    · exact hl' (hl hk)
  have hrec := afterAnswer_eq_answered hb
  generalize hs' : (if s.reqKind = .recv then State.receive d.bytes s else s) = s' at hrec ⊢
  have hc' : (s.afterAnswer d).command = some i := by rw [afterAnswer_command, hc]
  have hev : eventBusRsp d s = resume i (s.seq.toNat + 1) (s'.answered (d.answer s.reqKind)) := by
    rw [eventBusRsp_good hb, continueScript_eq hc', afterAnswer_seq, hrec]
  rw [hrec] at hc'
  have hn' : script i (s'.answered (d.answer s.reqKind)) ≠ [] := by
    rwa [← List.length_pos_iff, length_script_eq i _ s, List.length_pos_iff]
  obtain ⟨hissue, hfinish⟩ := resume_command i (s.seq.toNat + 1) _ hn' (Nat.succ_ne_zero _)
    fun r hr => argHalf_of_command (hr ▸ hc')
  rw [script_answered] at hissue hfinish
  refine ⟨s', ?_⟩
  cases hk : (script i s')[s.seq.toNat + 1]? with
  | none =>
    obtain ⟨data, replug, hr⟩ := hfinish hk
    exact ⟨_, hev.trans hr, rfl, nofun, fun _ => ⟨data, replug, completed_complete_answered _ _ _⟩⟩
  | some r =>
    refine ⟨_, hev.trans (hissue r hk), rfl, fun r' hr' => ?_, nofun⟩
    cases hr'
    exact issued_issue_answered _ _ _ _ fun bytes hb' => length_script_send (hb' ▸ hk)

/-! ## E_TAKE -/

/-- In DONE the step is E_TAKE. -/
theorem step_take {s : State} (hq : s.quiet) (hp : s.phase = .done) : step s = .next s.ticked.take := by
  rw [step_quiet hq, phaseEvent_done (s := s.ticked) hp]

/-- Settles O8: `State.take` names everything E_TAKE changes. -/
theorem takeHandsOverTheResponse : Obligations.TakeHandsOverTheResponse := by
  unfold Obligations.TakeHandsOverTheResponse
  exact fun s hq hp => step_take hq hp

/-! ## Runs -/

theorem run_of_step_eq_self {s : State} (h : step s = .next s) (n : Nat) : core.run n s = .next s := by
  induction n with
  | zero => rfl
  | succ n ih => rw [run_succ n h, ih]

/-- What every step keeps, every run keeps. -/
theorem run_keeps {P : State → Prop} (hstep : ∀ s t, P s → step s = .next t → P t) (n : Nat) {s u : State}
    (hs : P s) (h : core.run n s = .next u) : P u := by
  induction n generalizing s with
  | zero => cases h; exact hs
  | succ n ih =>
    cases hst : core.step s with
    | next t => exact ih (hstep s t hs hst) (by rwa [run_succ n hst] at h)
    | fault _ | refused _ => simp only [Host.Core.run, hst] at h; cases h

/-- Settles O9: with no answer to come the step is the identity, and a state in WAIT has not ended. -/
theorem unansweredRequestWaitsForEver : Obligations.UnansweredRequestWaitsForEver := by
  unfold Obligations.UnansweredRequestWaitsForEver
  intro s n ho hr hp hd
  have hstep : step s = .next s := by
    rw [step_quiet (quiet_of_no_reset ho hr), ticked_of_no_reset hr, phaseEvent_noAnswer hp hd]
  refine ⟨run_of_step_eq_self hstep n, ?_⟩
  rw [← Bool.not_eq_true, ended_iff, hp]
  exact fun ⟨_, h, _⟩ => nomatch h

/-! ## The run of one command -/

/-- `t` is in DONE with the command of `s` completed, after `recs`, and nothing taken yet; `n` counts the command's
transactions from `s` on, one outstanding in `s` included. -/
structure CompletesBy (n : Nat) (s t : State) (recs : List Record) : Prop where
  done : t.phase = .done
  around : t.around = s.around
  history : t.history = s.history ++ recs
  issues : recs.countP Record.isIssue + s.inWait ≤ n
  completes : recs.countP Record.isComplete = 1
  takes : recs.countP Record.isTake = 0
  answers : s.busAnswers.length ≤ t.busAnswers.length + n

theorem inWait_of_wait {s : State} (hp : s.phase = .wait) : s.inWait = 1 := if_pos hp

theorem inWait_of_not_wait {s : State} (hp : s.phase ≠ .wait) : s.inWait = 0 := if_neg hp

/-- Before a completing run from a state in WAIT may stand the step that issued its request, on an answer (in WAIT)
or at the accept. -/
theorem CompletesBy.after_issue {n : Nat} {s u t : State} {pre recs : List Record} (h : CompletesBy n u t recs)
    (hp : u.phase = .wait) (ha : u.around = s.around) (hh : u.history = s.history ++ pre)
    (hissue : pre.countP Record.isIssue = 1) (hcomplete : pre.countP Record.isComplete = 0)
    (htake : pre.countP Record.isTake = 0) (hd : s.busAnswers.length ≤ u.busAnswers.length + s.inWait) :
    CompletesBy (n + s.inWait) s t (pre ++ recs) where
  done := h.done
  around := h.around.trans ha
  history := by rw [h.history, hh, List.append_assoc]
  issues := by
    have hissues := h.issues
    rw [inWait_of_wait hp] at hissues
    rw [List.countP_append, hissue]
    omega
  completes := by rw [List.countP_append, hcomplete, h.completes]
  takes := by rw [List.countP_append, htake, h.takes]
  answers := by
    have hanswers := h.answers
    omega

/-- With an answer to come, a command in WAIT completes or goes on to the next transaction of its script. -/
theorem step_of_answer {s : State} {i : Instr} {d : BusDraw} {ds : List BusDraw} (ho : s.otherMaster = false)
    (hr : s.resetLine = []) (hp : s.phase = .wait) (hc : s.command = some i) (hn : ∀ s', script i s' ≠ [])
    (hd : s.busAnswers = d :: ds) :
    ∃ t a, step s = .next t ∧ t.around = s.around ∧ t.busAnswers = ds ∧
      ((t.phase = .done ∧ ∃ r, t.history = s.history ++ [.answer a, .complete r]) ∨
        (t.phase = .wait ∧ t.command = some i ∧ t.seq = BitVec.ofNat 2 (s.seq.toNat + 1) ∧
          s.seq.toNat + 1 < (script i s).length ∧ ∃ q, t.history = s.history ++ [.answer a, .issue q])) := by
  rw [step_quiet (quiet_of_no_reset ho hr), ticked_of_no_reset hr, phaseEvent_answer hp hd]
  by_cases hb : d.bad (s.answering ds)
  · exact ⟨_, d.answer s.reqKind, eventBusRsp_bad hb, rfl, rfl, .inl ⟨rfl, errorResponse .busError, by simp⟩⟩
  · have hc' : ((s.answering ds).afterAnswer d).command = some i := by rw [afterAnswer_command]; exact hc
    have hh := afterAnswer_history hb
    have ha : ((s.answering ds).afterAnswer d).around = s.around := afterAnswer_around d _
    have hds : ((s.answering ds).afterAnswer d).busAnswers = ds := afterAnswer_busAnswers d _
    rw [eventBusRsp_good hb, continueScript_eq hc', afterAnswer_seq]
    obtain ⟨r, hr, hx⟩ | ⟨data, replug, hx⟩ := resume_of_command hc' (hn _) s.seq.toNat
    · obtain ⟨hlt, -⟩ := List.getElem?_eq_some_iff.1 hr
      rw [length_script_eq i _ s] at hlt
      exact ⟨_, d.answer s.reqKind, hx, ha, hds,
        .inr ⟨rfl, hc', rfl, hlt, r.onBus s.devAddr, by rw [issue_history, hh]; simp⟩⟩
    · exact ⟨_, d.answer s.reqKind, hx, ha, hds,
        .inl ⟨rfl, okResponse data replug, by rw [finish_eq, complete_history, hh]; simp⟩⟩

/-- A command in WAIT with `n` transactions of its script left, and as many answers to come, completes within `n`
steps. -/
theorem wait_completes (n : Nat) {s : State} {i : Instr} (ho : s.otherMaster = false) (hr : s.resetLine = [])
    (hp : s.phase = .wait) (hc : s.command = some i) (hk : s.seq.toNat < (script i s).length)
    (hn : (script i s).length ≤ s.seq.toNat + n) (hd : n ≤ s.busAnswers.length) :
    ∃ m t recs, m ≤ n ∧ core.run m s = .next t ∧ CompletesBy n s t recs := by
  induction n generalizing s with
  | zero => omega
  | succ n ih =>
    have hscript : ∀ s', script i s' ≠ [] := by
      intro s'
      rw [← List.length_pos_iff, length_script_eq i s' s]
      omega
    obtain ⟨d, ds, hds⟩ := List.exists_cons_of_length_pos (Nat.lt_of_lt_of_le n.succ_pos hd)
    rw [hds, List.length_cons] at hd
    obtain ⟨u, a, hstep, hau, hbu, ⟨hdone, r, hh⟩ | ⟨hwait, hcu, hseq, hlt, q, hh⟩⟩ :=
      step_of_answer ho hr hp hc hscript hds
    · refine ⟨1, u, _, by omega, run_succ 0 hstep, hdone, hau, hh, ?_, rfl, rfl, ?_⟩
      · rw [inWait_of_wait hp]; exact Nat.le_add_left 1 n
      · rw [hds, hbu, List.length_cons]; omega
    · have hseq' : u.seq.toNat = s.seq.toNat + 1 := by
        have h3 := length_script_le i s
        rw [hseq, BitVec.toNat_ofNat]
        omega
      have hlen := length_script_eq i u s
      obtain ⟨m, t, recs, hm, hrun, h⟩ := ih (s := u) ((congrArg Around.otherMaster hau).trans ho)
        ((congrArg Around.resetLine hau).trans hr) hwait hcu (by omega) (by omega) (by rw [hbu]; omega)
      have hrec := h.after_issue (s := s) hwait hau hh rfl rfl rfl (by rw [hds, hbu, inWait_of_wait hp]; rfl)
      rw [inWait_of_wait hp] at hrec
      exact ⟨m + 1, t, _, by omega, (run_succ m hstep).trans hrun, hrec⟩

/-- The word offered in IDLE is accepted and its command completes within four steps, the accept and one for each of
at most three transactions. -/
theorem word_completes {s : State} {w : HostWord} {ws : List HostWord} (ho : s.otherMaster = false)
    (hr : s.resetLine = []) (hp : s.phase = .idle) (hs : s.frameSlot = none) (hw : s.hostWords = w :: ws)
    (hd : 3 ≤ s.busAnswers.length) :
    ∃ n t recs, n ≤ 4 ∧ core.run n s = .next t ∧ CompletesBy 3 ((s.offering ws).latch w) t recs := by
  have hstep := step_accept (quiet_of_no_reset ho hr) hp hs hw
  rw [ticked_of_no_reset hr] at hstep
  have hin : ((s.offering ws).latch w).inWait = 0 := inWait_of_not_wait (by simp [hp])
  obtain ⟨c, ⟨e, hx⟩ | ⟨i, bytes, hi, hscript, hx⟩⟩ := eventAccept_outcome w (s.offering ws)
  · refine ⟨1, _, [.complete ⟨e, 0, false⟩], by omega, run_succ 0 (hstep.trans hx),
      rfl, rfl, rfl, ?_, rfl, rfl, ?_⟩
    · rw [hin]; exact Nat.zero_le 3
    · exact Nat.le_add_right _ 3
  · generalize hu : (((s.offering ws).latch w).withConfig c).issue 0 (.send bytes) = u at hx
    have hlen := length_script_eq i u (((s.offering ws).latch w).withConfig c)
    have hpos := List.length_pos_iff.2 hscript
    have hle := length_script_le i u
    have hau : u.around = ((s.offering ws).latch w).around := hu ▸ rfl
    have hbu : u.busAnswers = s.busAnswers := hu ▸ rfl
    have hseq : u.seq.toNat = 0 := hu ▸ rfl
    have hwait : u.phase = .wait := hu ▸ rfl
    obtain ⟨m, t, recs, hm, hrun, h⟩ := wait_completes 3 (s := u) (i := i)
      ((congrArg Around.otherMaster hau).trans ho) ((congrArg Around.resetLine hau).trans hr) hwait
      (hu ▸ hi) (by omega) (by omega) (hbu ▸ hd)
    have hh : u.history = s.history ++ [.issue ((Req.send bytes).onBus s.devAddr)] := hu ▸ rfl
    have hrec := h.after_issue (s := (s.offering ws).latch w) hwait hau hh rfl rfl rfl (by rw [hin, hbu]; rfl)
    rw [hin] at hrec
    exact ⟨m + 1, t, _, by omega, (run_succ m (hstep.trans hx)).trans hrun, hrec⟩

/-- The word offered in IDLE is accepted, and its response is taken within five steps. -/
theorem word_taken {s : State} {w : HostWord} {ws : List HostWord} (ho : s.otherMaster = false)
    (hr : s.resetLine = []) (hp : s.phase = .idle) (hs : s.frameSlot = none) (hw : s.hostWords = w :: ws)
    (hd : 3 ≤ s.busAnswers.length) :
    ∃ n t recs, n ≤ 5 ∧ core.run n s = .next t.take ∧ CompletesBy 3 ((s.offering ws).latch w) t recs := by
  obtain ⟨n, t, recs, hn, hrun, h⟩ := word_completes ho hr hp hs hw hd
  have hrt : t.resetLine = [] := (congrArg Around.resetLine h.around).trans hr
  have hq : t.quiet := quiet_of_no_reset ((congrArg Around.otherMaster h.around).trans ho) hrt
  have htake : step t = .next t.take := by rw [step_take hq h.done, ticked_of_no_reset hrt]
  exact ⟨n + 1, t, recs, by omega, by rw [run_add n 1 hrun, run_succ 0 htake]; rfl, h⟩

/-- Settles O46: the accept, at most three answers, the take. -/
theorem everyAnsweredCommandCompletesOnce : Obligations.EveryAnsweredCommandCompletesOnce := by
  unfold Obligations.EveryAnsweredCommandCompletesOnce
  intro s w ws ho hr hp hs hw hd
  obtain ⟨n, t, recs, hn, hrun, h⟩ := word_taken ho hr hp hs hw hd
  refine ⟨n, t.take, recs ++ [.take], hn, hrun, rfl, congrArg Around.hostWords h.around,
    (congrArg Around.resetLine h.around).trans hr, congrArg Around.accepted h.around, ?_,
    congrArg Around.devAddr h.around, ?_, ?_, ?_, ?_, h.answers⟩
  · exact congrArg (· ++ [t.response]) (congrArg Around.hostOut h.around)
  · rw [take_history, h.history, List.append_assoc]; rfl
  · rw [List.countP_append]; exact (Nat.le_add_right _ _).trans h.issues
  · rw [List.countP_append, h.completes]; rfl
  · rw [List.countP_append, h.takes]; rfl

/-! ## The run of a program -/

/-- Settles O47, by induction on the program: each word's command runs to its take, and leaves its successors three
answers each. -/
theorem everyAnsweredProgramEnds : Obligations.EveryAnsweredProgramEnds := by
  unfold Obligations.EveryAnsweredProgramEnds
  intro ws
  induction ws with
  | nil =>
    intro s _ _ hp hs hw _
    refine ⟨0, s, Nat.le_refl 0, rfl, hp, hw, ?_, (List.append_nil _).symm, rfl⟩
    rw [ended_iff]
    exact ⟨fun ⟨_, _, h, _⟩ => h, fun h => ⟨hw, hp, h, hs⟩⟩
  | cons w ws ih =>
    intro s ho hr hp hs hw hd
    rw [List.length_cons] at hd
    obtain ⟨n, u, recs, hn, hrun, h⟩ := word_taken ho hr hp hs hw (by omega)
    have hout : u.take.hostOut.length = s.hostOut.length + 1 := by
      rw [take_hostOut, show u.hostOut = s.hostOut from congrArg Around.hostOut h.around, List.length_append]; rfl
    have hacc : u.take.accepted = s.accepted ++ [w] := congrArg Around.accepted h.around
    have hans : s.busAnswers.length ≤ u.take.busAnswers.length + 3 := h.answers
    obtain ⟨m, t, hm, hrun', hpt, hwt, hended, hat, hot⟩ := ih u.take
      ((congrArg Around.otherMaster h.around).trans ho) ((congrArg Around.resetLine h.around).trans hr) rfl
      ((congrArg Around.frameSlot h.around).trans hs) (congrArg Around.hostWords h.around) (by omega)
    refine ⟨n + m, t, by rw [List.length_cons]; omega, (run_add n m hrun).trans hrun', hpt, hwt, ?_, ?_, ?_⟩
    · rw [hended, hout, hacc, List.length_append, List.length_singleton, Nat.add_right_cancel_iff]
    · rw [hat, hacc, List.append_assoc]; rfl
    · rw [hot, hout, List.length_cons]; omega

/-! ## The end of a run -/

/-- Settles O56: the invariant bounds the takes by the completions and these by the accepted words, and at the end the
ends of the chain are equal. -/
theorem endedRunAnsweredEveryWord : Obligations.EndedRunAnsweredEveryWord := by
  unfold Obligations.EndedRunAnsweredEveryWord
  intro s hi hended
  obtain ⟨hw, hp, hlen, -⟩ := (ended_iff s).1 hended
  have htaken := hi.taken
  have htake_le := hi.taken_le
  have hcomplete_le := hi.completed_le
  exact ⟨hw, hp, hlen, by omega, by omega⟩

/-- A command of the past was left without its response: fewer responses were handed out than words accepted, even
when that of the command under way is handed out too. -/
structure Abandoned (s : State) : Prop where
  noSlot : s.frameSlot = none
  behind : s.hostOut.length + 1 ≤ s.accepted.length
  behindBusy : s.phase ≠ .idle → s.hostOut.length + 2 ≤ s.accepted.length

theorem Abandoned.of_around {s t : State} (h : Abandoned s) (hp : s.phase ≠ .idle) (ha : t.around = s.ticked.around) :
    Abandoned t := by
  have hout : t.hostOut = s.hostOut := congrArg Around.hostOut ha
  have hacc : t.accepted = s.accepted := congrArg Around.accepted ha
  have hbusy := h.behindBusy hp
  rw [← hout, ← hacc] at hbusy
  exact ⟨(congrArg Around.frameSlot ha).trans h.noSlot, by omega, fun _ => hbusy⟩

theorem Abandoned.accept {s : State} (h : Abandoned s) (w : HostWord) (ws : List HostWord) {t : State}
    (ha : t.around = (s.accepting w ws).around) : Abandoned t := by
  have hout : t.hostOut = s.hostOut := congrArg Around.hostOut ha
  have hacc : t.accepted = s.accepted ++ [w] := congrArg Around.accepted ha
  have hbehind := h.behind
  have hlen : t.hostOut.length + 2 ≤ t.accepted.length := by
    rw [hout, hacc, List.length_append, List.length_singleton]; omega
  exact ⟨(congrArg Around.frameSlot ha).trans h.noSlot, by omega, fun _ => hlen⟩

/-- No later command makes up for the abandoned one. -/
theorem step_abandoned (s t : State) (h : Abandoned s) (hstep : step s = .next t) : Abandoned t := by
  cases step_cases hstep with
  | reset _ _ ht => subst ht; exact ⟨h.noSlot, h.behind, fun hp => absurd rfl hp⟩
  | nothing _ _ ht => subst ht; exact ⟨h.noSlot, h.behind, h.behindBusy⟩
  | frame _ _ _ _ hs => rw [h.noSlot] at hs; cases hs
  | rejected _ _ _ w ws _ _ _ _ ht => subst ht; exact h.accept w ws rfl
  | finished _ _ _ w ws _ _ _ _ hc _ ht => subst ht; exact h.accept w ws hc.around
  | started _ _ _ w ws _ _ _ _ hc _ _ _ _ _ _ ht => subst ht; exact h.accept w ws hc.around
  | failed _ hp _ _ _ _ ht => subst ht; exact h.of_around (by simp [hp]) rfl
  | answered _ hp _ _ _ _ _ _ ht => exact h.of_around (by simp [hp]) (around_of_answered ht)
  | took _ hp ht =>
    subst ht
    refine ⟨h.noSlot, ?_, fun hp' => absurd rfl hp'⟩
    rw [take_hostOut, List.length_append]
    exact h.behindBusy (by simp [hp])

/-- Settles O57: the reset leaves the command abandoned, and every step keeps it so. -/
theorem abandonedCommandNeverEnds : Obligations.AbandonedCommandNeverEnds := by
  unfold Obligations.AbandonedCommandNeverEnds
  intro s d hi ho hp hr
  have habandoned : Abandoned (s.ticked.eventReset d) :=
    ⟨hi.noSlot, hi.hostOut_lt_accepted hp, fun hp' => absurd rfl hp'⟩
  exact ⟨_, step_reset ho (by rw [hr]; rfl), rfl, rfl, ended_eq_false_of_abandoned habandoned.behind,
    fun n u hu => ended_eq_false_of_abandoned (run_keeps step_abandoned n habandoned hu).behind⟩

end Sys2Proof.Machine

/-! SUPPORT. The configuration commands: what each accepts, writes, sends and answers (42_config.md R100 to R105). -/

namespace Sys2Proof.Machine

/-! ## Operands -/

theorem aboveFifteen_iff {v : Byte} : aboveFifteen v = true ↔ 15 < v.toNat := decide_eq_true_iff

/-- A field of OPERAND is the field of the word at the same bits (30_encoding.md R59). -/
theorem extract_operand (w : HostWord) {start len : Nat} (h : start + len ≤ 32) :
    (w.extractLsb' 0 32).extractLsb' start len = w.extractLsb' start len := by
  rw [BitVec.extractLsb'_extractLsb'_of_le h]

/-- A command of format H8 takes the word's low byte, whatever its other operand bits are. -/
theorem decodeWord_h8 {op : Byte} {f : Byte → Instr} (h : ∀ arg, decodeCommand op arg = some (f (fieldByte0 arg)))
    {w : HostWord} (hw : w.extractLsb' 32 8 = op) : decodeWord w = some (f (w.extractLsb' 0 8)) := by
  rw [decodeWord_of_op hw, h, fieldByte0, extract_operand w (by decide)]

/-! ## The setters of one register -/

/-- A setter whose accept part writes its register by `write`: an operand above 15 is rejected with `s` as it stands,
any other is written unchanged. -/
theorem setter_writes_or_rejects {i : Instr} {v : Byte} {s : State} (write : Nibble → State)
    (hx : exec i s = .next (if aboveFifteen v then s.raise .rangeError else (write (lowFour v)).finish 0 false)) :
    ∃ t, exec i s = .next t ∧
      (15 < v.toNat → Completed [] ⟨.rangeError, 0, false⟩ s t) ∧
      (v.toNat ≤ 15 → ∃ x : Nibble, x.toNat = v.toNat ∧ Completed [] ⟨.ok, 0, false⟩ (write x) t) := by
  refine ⟨_, hx, fun hv => ?_, fun hv => ⟨lowFour v, toNat_lowFour hv, ?_⟩⟩
  · rw [if_pos (aboveFifteen_iff.2 hv)]
    exact completed_complete _ _
  · rw [if_neg (mt aboveFifteen_iff.1 (Nat.not_lt.2 hv))]
    exact completed_complete _ _

/-- Settles O18: a setter of the low byte that writes IRUN. -/
theorem setIrunWritesOrRejects : Obligations.SetIrunWritesOrRejects := by
  unfold Obligations.SetIrunWritesOrRejects
  exact ⟨fun _ => decodeWord_h8 fun _ => rfl, fun _ s => setter_writes_or_rejects (fun x => { s with irun := x }) rfl⟩

/-- Settles O19: a setter of the low byte that writes IHOLD. -/
theorem setIholdWritesOrRejects : Obligations.SetIholdWritesOrRejects := by
  unfold Obligations.SetIholdWritesOrRejects
  exact ⟨fun _ => decodeWord_h8 fun _ => rfl, fun _ s => setter_writes_or_rejects (fun x => { s with ihold := x }) rfl⟩

/-- Settles O20: a setter of the low byte that writes VMAX. -/
theorem setVmaxWritesOrRejects : Obligations.SetVmaxWritesOrRejects := by
  unfold Obligations.SetVmaxWritesOrRejects
  exact ⟨fun _ => decodeWord_h8 fun _ => rfl, fun _ s => setter_writes_or_rejects (fun x => { s with vmax := x }) rfl⟩

/-- Settles O21: a setter of the low byte that writes VMIN. -/
theorem setVminWritesOrRejects : Obligations.SetVminWritesOrRejects := by
  unfold Obligations.SetVminWritesOrRejects
  exact ⟨fun _ => decodeWord_h8 fun _ => rfl, fun _ s => setter_writes_or_rejects (fun x => { s with vmin := x }) rfl⟩

/-! ## The commands that send the configuration -/

/-- The frame sent is FM of the registers as they stand (R104, 40_codec.md R76). -/
theorem sendIssued_motorParamFrame (s : State) :
    SendIssued [] 0 [0x89, 0xFF, 0xFF, joinNibbles s.irun s.ihold, joinNibbles s.vmax s.vmin, 0x00, 0x00, 0x00] s
      (s.issue 0 (.send s.motorParamFrame)) := by
  rw [State.motorParamFrame, encodeSetMotorParam_eq]
  exact sendIssued_issue 0 _ s (Nat.le_refl 8)

/-- The answer to a SEND is good unless the transaction failed. -/
theorem not_bad_of_send {d : BusDraw} {s : State} (hk : s.reqKind = .send) (hf : d.fails = false) : ¬ d.bad s := by
  rintro (hf' | ⟨hk', -⟩)
  · rw [hf] at hf'; cases hf'
  · rw [hk] at hk'; cases hk'

/-- A command that finishes after any good answer completes on the answer to its SEND. -/
theorem oneStepCompletes_of_resume {i : Instr} {replug : Bool}
    (h : ∀ k s, resume i k s = .next (s.finish 0 replug)) : OneStepCompletes i replug := by
  intro s d hc hk
  cases hf : d.fails with
  | true =>
    have hans : d.answer s.reqKind = .err := if_pos hf
    refine ⟨_, eventBusRsp_bad (.inl hf), fun _ => ?_, nofun⟩
    rw [hans]
    exact completed_complete_answered _ _ _
  | false =>
    have hafter : s.afterAnswer d = s.answered .ok := by rw [State.afterAnswer, hk]
    have hev : eventBusRsp d s = .next ((s.answered .ok).finish 0 replug) := by
      rw [eventBusRsp_good (not_bad_of_send hk hf), hafter, continueScript_eq (s := s.answered .ok) hc, h]
    exact ⟨_, hev, nofun, fun _ => completed_complete_answered _ _ _⟩

/-- Settles O22: the word, the frame of the four registers, the completion. -/
theorem setMotorParamSendsTheRegisters : Obligations.SetMotorParamSendsTheRegisters := by
  unfold Obligations.SetMotorParamSendsTheRegisters
  refine ⟨fun w hw => decodeWord_of_op hw, fun s => ⟨_, rfl, _, _, toNat_joinNibbles _ _, toNat_joinNibbles _ _, ?_⟩,
    oneStepCompletes_of_resume fun _ _ => rfl⟩
  exact sendIssued_motorParamFrame s

/-- The range check of SET_MOTOR_PARAM4 takes all four values together (R105). -/
theorem anyAboveFifteen_iff {a b c d : Byte} :
    (aboveFifteen a || aboveFifteen b || aboveFifteen c || aboveFifteen d) = true ↔
      15 < a.toNat ∨ 15 < b.toNat ∨ 15 < c.toNat ∨ 15 < d.toNat := by
  simp only [Bool.or_eq_true, aboveFifteen_iff, or_assoc]

theorem exec_setMotorParam4_of_above {a b c d : Byte}
    (h : 15 < a.toNat ∨ 15 < b.toNat ∨ 15 < c.toNat ∨ 15 < d.toNat) (s : State) :
    exec (.setMotorParam4 a b c d) s = .next (s.raise .rangeError) := by
  rw [exec, execSetMotorParam4, if_pos (anyAboveFifteen_iff.2 h)]

theorem exec_setMotorParam4_of_inRange {a b c d : Byte}
    (h : ¬(15 < a.toNat ∨ 15 < b.toNat ∨ 15 < c.toNat ∨ 15 < d.toNat)) (s : State) :
    exec (.setMotorParam4 a b c d) s =
      .next ((s.withMotorParams a b c d).issue 0 (.send (s.withMotorParams a b c d).motorParamFrame)) := by
  rw [exec, execSetMotorParam4, if_neg (mt anyAboveFifteen_iff.1 h)]

/-- Two values in range make the byte of their nibbles. -/
theorem toNat_joinNibbles_lowFour {a b : Byte} (ha : a.toNat ≤ 15) (hb : b.toNat ≤ 15) :
    (joinNibbles (lowFour a) (lowFour b)).toNat = a.toNat * 16 + b.toNat := by
  rw [toNat_joinNibbles, toNat_lowFour ha, toNat_lowFour hb]

/-- Settles O23: by cases on the range check; in range, the frame is built after the write, and the completion finds
the registers written. -/
theorem setMotorParam4ChecksAllThenWritesAll : Obligations.SetMotorParam4ChecksAllThenWritesAll := by
  unfold Obligations.SetMotorParam4ChecksAllThenWritesAll
  refine ⟨fun w hw => ?_, fun a b c d s => ?_, fun a b c d => oneStepCompletes_of_resume fun _ _ => rfl⟩
  · have hfields : decodeWord w = some (.setMotorParam4 _ _ _ _) := decodeWord_of_op hw
    rw [hfields, fieldByte3, fieldByte2, fieldByte1, fieldByte0, extract_operand w (by decide),
      extract_operand w (by decide), extract_operand w (by decide), extract_operand w (by decide)]
  · by_cases h : 15 < a.toNat ∨ 15 < b.toNat ∨ 15 < c.toNat ∨ 15 < d.toNat
    · exact ⟨_, exec_setMotorParam4_of_above h s, fun _ => completed_complete _ _,
        fun ha hb hc hd => absurd h (by omega)⟩
    · refine ⟨_, exec_setMotorParam4_of_inRange h s, fun h' => absurd h' h, fun ha hb hc hd => ?_⟩
      exact ⟨lowFour a, lowFour b, lowFour c, lowFour d, _, _, toNat_lowFour ha, toNat_lowFour hb, toNat_lowFour hc,
        toNat_lowFour hd, toNat_joinNibbles_lowFour ha hb, toNat_joinNibbles_lowFour hc hd,
        sendIssued_motorParamFrame (s.withMotorParams a b c d)⟩

end Sys2Proof.Machine

/-! SUPPORT. The motion and single-opcode commands: what each sends, how an answer continues or ends it, and the whole
run of DRIVE (43_motion.md R106 to R113). -/

namespace Sys2Proof.Machine

/-! ## The answer to a transaction -/

/-- A failed transaction ends the command, whichever it is and whatever it asked for (41_sequencer.md R90). -/
theorem completed_of_fails {d : BusDraw} (s : State) (hf : d.fails = true) :
    ∃ t, eventBusRsp d s = .next t ∧ Completed [.answer .err] ⟨.busError, 0, false⟩ s t := by
  have hans : d.answer s.reqKind = .err := if_pos hf
  refine ⟨_, eventBusRsp_bad (.inl hf), ?_⟩
  rw [hans]
  exact completed_complete_answered _ _ _

/-- A RECV answered by any other number of bytes than 8 ends the command (20_memory.md R45). -/
theorem completed_of_wrong_length {d : BusDraw} {s : State} (hf : d.fails = false) (hk : s.reqKind = .recv)
    (hl : d.bytes.length ≠ 8) :
    ∃ t, eventBusRsp d s = .next t ∧ Completed [.answer (.data d.bytes)] ⟨.busError, 0, false⟩ s t := by
  have hans : d.answer s.reqKind = .data d.bytes := by simp [BusDraw.answer, hf, hk]
  refine ⟨_, eventBusRsp_bad (.inr ⟨hk, hl⟩), ?_⟩
  rw [hans]
  exact completed_complete_answered _ _ _

/-- After a good answer the script of the command goes on. -/
theorem eventBusRsp_resume {d : BusDraw} {s : State} {i : Instr} (hc : s.command = some i) (hb : ¬ d.bad s) :
    eventBusRsp d s = resume i (s.seq.toNat + 1) (s.afterAnswer d) := by
  rw [eventBusRsp_good hb, continueScript_eq ((afterAnswer_command d s).trans hc), afterAnswer_seq]

/-- A SEND that succeeded is recorded. -/
theorem eventBusRsp_sent {d : BusDraw} {s : State} {i : Instr} (hc : s.command = some i) (hk : s.reqKind = .send)
    (hf : d.fails = false) : eventBusRsp d s = resume i (s.seq.toNat + 1) (s.answered .ok) := by
  rw [eventBusRsp_resume hc (not_bad_of_send hk hf), State.afterAnswer, hk]

/-- The 8 bytes of a RECV are recorded and become RXBUF. -/
theorem eventBusRsp_received {d : BusDraw} {s : State} {i : Instr} {b : Buf} (hc : s.command = some i)
    (hk : s.reqKind = .recv) (hf : d.fails = false) (hd : d.bytes = b.toList) :
    eventBusRsp d s = resume i (s.seq.toNat + 1) ((s.receive b.toList).answered (.data b.toList)) := by
  have hgood : ¬ d.bad s := by
    rintro (hf' | ⟨-, hl⟩)
    · rw [hf] at hf'; cases hf'
    · rw [hd] at hl; exact hl rfl
  rw [eventBusRsp_resume hc hgood, State.afterAnswer, hk, hd]
  rfl

/-! ## The commands of one transaction -/

/-- A command without operand fields that issues one byte at its accept and finishes on the answer. -/
theorem singleOpcode_sends {op opcode : Byte} {i : Instr} (hdecode : ∀ arg, decodeCommand op arg = some i)
    (haccept : ∀ s, exec i s = .next (s.issue 0 (.send [opcode])))
    (hresume : ∀ k s, resume i k s = .next (s.finish 0 false)) :
    (∀ w : HostWord, w.extractLsb' 32 8 = op → decodeWord w = some i) ∧
    (∀ s : State, ∃ t, exec i s = .next t ∧ SendIssued [] 0 [opcode] s t) ∧
    OneStepCompletes i false :=
  ⟨fun _ hw => (decodeWord_of_op hw).trans (hdecode _),
    fun s => ⟨_, haccept s, sendIssued_issue 0 [opcode] s (Nat.le_add_left 1 7)⟩, oneStepCompletes_of_resume hresume⟩

/-- Settles O24: row by row, each of the six is a command of one byte. -/
theorem singleOpcodeCommandsSendOneByte : Obligations.SingleOpcodeCommandsSendOneByte := by
  unfold Obligations.SingleOpcodeCommandsSendOneByte
  intro op opcode i hrow
  simp only [List.mem_cons, List.not_mem_nil, or_false, Prod.mk.injEq] at hrow
  obtain ⟨rfl, rfl, rfl⟩ | ⟨rfl, rfl, rfl⟩ | ⟨rfl, rfl, rfl⟩ | ⟨rfl, rfl, rfl⟩ | ⟨rfl, rfl, rfl⟩ | ⟨rfl, rfl, rfl⟩ := hrow
  all_goals exact singleOpcode_sends (fun _ => rfl) (fun _ => rfl) fun _ _ => rfl

/-- A command of format H16 takes the word's low 16 bits, whatever its other operand bits are. -/
theorem decodeWord_h16 {op : Byte} {f : Half → Instr} (h : ∀ arg, decodeCommand op arg = some (f (fieldS16 arg)))
    {w : HostWord} (hw : w.extractLsb' 32 8 = op) : decodeWord w = some (f (w.extractLsb' 0 16)) := by
  rw [decodeWord_of_op hw, h, fieldS16, extract_operand w (by decide)]

theorem length_encodeSetPosition_le (t : Half) : (encodeSetPosition t).length ≤ 8 :=
  length_encodeFrame (bytes_frameSetPosition t)

/-- Settles O25: the two bytes are the target's own. -/
theorem setPositionSendsTheTarget : Obligations.SetPositionSendsTheTarget := by
  unfold Obligations.SetPositionSendsTheTarget
  refine ⟨fun _ => decodeWord_h16 fun _ => rfl, fun target s => ⟨_, rfl, _, _, toNat_half_eq_bytes target, ?_⟩,
    fun _ => oneStepCompletes_of_resume fun _ _ => rfl⟩
  exact sendIssued_issue 0 _ s (length_encodeSetPosition_le target)

/-! ## DRIVE, transaction by transaction -/

/-- The target is the wrapping sum of the position in RXBUF and the operand (R113). -/
theorem driveTarget_eq {s : State} {r : Half} (hc : s.command = some (.drive r)) :
    s.driveTarget = joinBytes s.rxbuf.b1 s.rxbuf.b2 + r := by
  rw [State.driveTarget, argHalf_of_command hc, decodeActualPosition_eq, s16, trunc16_add]

/-- The wrapping sum is the sum of the signed values mod 2^16. -/
theorem toNat_position_add (b : Buf) (r : Half) :
    ((joinBytes b.b1 b.b2 + r).toNat : Int) = (decodeActualPosition b + r.toInt) % 65536 := by
  rw [decodeActualPosition_eq, ← toNat_trunc16, trunc16_add]

/-- The accept part issues the status request, whatever the operand. -/
theorem exec_drive (r : Half) (s : State) : exec (.drive r) s = .next (s.issue 0 (.send [0xFC])) := rfl

section
variable {s : State} {d : BusDraw} {r : Half} {b : Buf} (hc : s.command = some (.drive r)) (hf : d.fails = false)
include hc hf

/-- After the status request the RECV. -/
theorem drive_requested (hs : s.seq = 0) (hk : s.reqKind = .send) :
    eventBusRsp d s = .next ((s.answered .ok).issue 1 .recv) := by
  rw [eventBusRsp_sent hc hk hf, hs]
  rfl

/-- After the RECV the target, computed from the bytes just received. -/
theorem drive_received (hs : s.seq = 1) (hk : s.reqKind = .recv) (hd : d.bytes = b.toList) :
    eventBusRsp d s = .next (((s.receive b.toList).answered (.data b.toList)).issue 2
      (.send (encodeSetPosition (joinBytes b.b1 b.b2 + r)))) := by
  have htarget : ((s.receive b.toList).answered (.data b.toList)).driveTarget = joinBytes b.b1 b.b2 + r :=
    driveTarget_eq (s := (s.receive b.toList).answered (.data b.toList)) hc
  rw [eventBusRsp_received hc hk hf hd, hs, ← htarget]
  rfl

/-- After the target the completion. -/
theorem drive_sent (hs : s.seq = 2) (hk : s.reqKind = .send) :
    eventBusRsp d s = .next ((s.answered .ok).complete ⟨.ok, 0, false⟩) := by
  rw [eventBusRsp_sent hc hk hf, hs]
  rfl

end

/-- Settles O26: the accept, and the answers good and bad to each of the three transactions. -/
theorem driveSendsTheWrappedSum : Obligations.DriveSendsTheWrappedSum := by
  unfold Obligations.DriveSendsTheWrappedSum
  refine ⟨fun _ => decodeWord_h16 fun _ => rfl, fun r s => ⟨_, exec_drive r s, sendIssued_issue 0 [0xFC] s (by decide)⟩,
    fun r s d hc => ⟨completed_of_fails s, fun hf hs hk => ?_, fun hf _ hk => completed_of_wrong_length hf hk,
      fun b hf hs hk hd => ?_, fun hf hs hk => ?_⟩⟩
  · exact ⟨_, drive_requested hc hf hs hk, recvIssued_issue_answered _ _ _⟩
  · refine ⟨_, drive_received hc hf hs hk hd, (joinBytes b.b1 b.b2 + r).extractLsb' 8 8,
      (joinBytes b.b1 b.b2 + r).extractLsb' 0 8, ?_, ?_⟩
    · rw [← toNat_position_add b r, toNat_half_eq_bytes (joinBytes b.b1 b.b2 + r)]
      rfl
    · rw [hd]
      exact sendIssued_issue_answered _ _ _ _ (length_encodeSetPosition_le _)
  · exact ⟨_, drive_sent hc hf hs hk, completed_complete_answered _ _ _⟩

/-! ## The run of DRIVE -/

/-- In WAIT with an answer to come a run goes on with E_BUSRSP. -/
theorem run_answer (n : Nat) {s t : State} (d : BusDraw) (ds : List BusDraw) (ho : s.otherMaster = false)
    (hr : s.resetLine = []) (hp : s.phase = .wait) (hd : s.busAnswers = d :: ds)
    (h : eventBusRsp d (s.answering ds) = .next t) : core.run (n + 1) s = core.run n t := by
  apply run_succ
  rw [step_quiet (quiet_of_no_reset ho hr), ticked_of_no_reset hr, phaseEvent_answer hp hd, h]

/-- The wrapping sum is the sum of the bytes' values mod 2^16. -/
theorem toNat_joinBytes_add (hi lo : Byte) (r : Half) :
    (joinBytes hi lo + r).toNat = (hi.toNat * 256 + lo.toNat + r.toNat) % 65536 := by
  rw [BitVec.toNat_add, toNat_joinBytes]

/-- Settles O27: the accept, the three answers, the take; the end state's fields are read off the operations that made
it. -/
theorem driveRunIssuesReadThenWrappedTarget : Obligations.DriveRunIssuesReadThenWrappedTarget := by
  unfold Obligations.DriveRunIssuesReadThenWrappedTarget
  intro s w a0 a1 a2 rest b ho hr hp hs hw hop ha hf0 hf1 hf2 hd
  have hi : decodeWord w = some (.drive (w.extractLsb' 0 16)) := decodeWord_h16 (fun _ => rfl) hop
  generalize w.extractLsb' 0 16 = r at hi ⊢
  have haccept := step_accept (quiet_of_no_reset ho hr) hp hs hw
  rw [ticked_of_no_reset hr, eventAccept_legal _ hi, exec_drive] at haccept
  have hrun := calc core.run 5 s
    _ = core.run 4 _ := run_succ 4 haccept
    _ = core.run 3 _ := run_answer 3 a0 (a1 :: a2 :: rest) ho hr rfl ha (drive_requested hi hf0 rfl rfl)
    _ = core.run 2 _ := run_answer 2 a1 (a2 :: rest) (by simp [ho]) (by simp [hr]) rfl rfl
      (drive_received hi hf1 rfl rfl hd)
    _ = core.run 1 _ := run_answer 1 a2 rest (by simp [ho]) (by simp [hr]) rfl rfl (drive_sent hi hf2 rfl rfl)
    _ = .next _ := run_succ 0 (step_take (quiet_of_no_reset (by simp [ho]) (by simp [hr])) rfl)
  refine ⟨_, (joinBytes b.b1 b.b2 + r).extractLsb' 8 8, (joinBytes b.b1 b.b2 + r).extractLsb' 0 8, hrun,
    rfl, rfl, by simp, ?_, ?_, ?_⟩
  · simp [ended_iff, hs]
  · rw [← toNat_half_eq_bytes, toNat_joinBytes_add]
  · simp [State.response, encodeSetPosition_eq]

end Sys2Proof.Machine

/-! SUPPORT. The status queries: the request, the RECV, the response read from the 8 bytes received
(44_status.md R114 to R116). -/

namespace Sys2Proof.Machine

/-- A command without operand fields that requests with one byte, receives, and finishes with a value of RXBUF.
The cases of the answer: failed, good to the request, of the wrong length, good to the RECV. -/
theorem twoStepQuery_of_script {op opcode : Byte} {i : Instr} {value : Buf → Half}
    (hdecode : ∀ arg, decodeCommand op arg = some i)
    (haccept : ∀ s, exec i s = .next (s.issue 0 (.send [opcode])))
    (hrequested : ∀ s, resume i 1 s = .next (s.issue 1 .recv))
    (hreceived : ∀ s, resume i 2 s = .next (s.finish (value s.rxbuf) false)) : TwoStepQuery op opcode i value := by
  refine ⟨fun _ hw => (decodeWord_of_op hw).trans (hdecode _),
    fun s => ⟨_, haccept s, sendIssued_issue 0 [opcode] s (Nat.le_add_left 1 7)⟩,
    fun s d hc => ⟨completed_of_fails s, fun hf hs hk => ?_, fun hf _ hk => completed_of_wrong_length hf hk,
      fun b hf hs hk hd => ?_⟩⟩
  · have hev : eventBusRsp d s = .next ((s.answered .ok).issue 1 .recv) := by
      rw [eventBusRsp_sent hc hk hf, hs]
      exact hrequested _
    exact ⟨_, hev, recvIssued_issue_answered _ _ _⟩
  · have hev : eventBusRsp d s =
        .next (((s.receive b.toList).answered (.data b.toList)).complete ⟨.ok, value b, false⟩) := by
      rw [eventBusRsp_received hc hk hf hd, hs]
      exact hreceived _
    rw [hd]
    exact ⟨_, hev, completed_complete_answered _ _ _⟩

/-- Bits 7..5 of byte 5 are its quotient by 32 (40_codec.md R79). -/
theorem setWidth_decodeMotionStatus (f : Buf) :
    (decodeMotionStatus f).setWidth 16 = BitVec.ofNat 16 (f.b5.toNat / 32) := by
  rw [← toNat_decodeMotionStatus, BitVec.ofNat_toNat]

/-- The pattern of the position is the value of its two bytes, the high one first (R82). -/
theorem trunc16_decodeActualPosition (f : Buf) :
    trunc16 (decodeActualPosition f) = BitVec.ofNat 16 (f.b1.toNat * 256 + f.b2.toNat) := by
  rw [decodeActualPosition_eq, trunc16_toInt, ← toNat_joinBytes, BitVec.ofNat_toNat, BitVec.setWidth_eq]

/-- Settles O28: the value is the motion status decoded from RXBUF. -/
theorem getMotionStatusReturnsTheField : Obligations.GetMotionStatusReturnsTheField := by
  unfold Obligations.GetMotionStatusReturnsTheField
  refine twoStepQuery_of_script (fun _ => rfl) (fun _ => rfl) (fun _ => rfl) fun s => ?_
  rw [← setWidth_decodeMotionStatus]
  rfl

/-- Settles O29: the value is the switch bit decoded from RXBUF. -/
theorem getSwitchReturnsTheBit : Obligations.GetSwitchReturnsTheBit := by
  unfold Obligations.GetSwitchReturnsTheBit
  refine twoStepQuery_of_script (fun _ => rfl) (fun _ => rfl) (fun _ => rfl) fun s => ?_
  rw [← decodeSwitchState_eq]
  rfl

/-- Settles O30: the value is the position decoded from RXBUF, taken back to its 16-bit pattern. -/
theorem getActualPositionReturnsTheBytes : Obligations.GetActualPositionReturnsTheBytes := by
  unfold Obligations.GetActualPositionReturnsTheBytes
  refine twoStepQuery_of_script (fun _ => rfl) (fun _ => rfl) (fun _ => rfl) fun s => ?_
  rw [← trunc16_decodeActualPosition]
  rfl

end Sys2Proof.Machine

/-! SUPPORT. BURN_NEW_ADDRESS: the completion code of each check, the frame of an address that passes, and the
addresses sent with DEV_ADDR's bits (45_address_burn.md R117 to R120). -/

namespace Sys2Proof.Machine

/-! ## The checks -/

/-- R119 on DEV_ADDR: the check of step 3 finds a bit among 4..1 that the new address would clear. -/
theorem otpBits_devAddrByte_cleared_iff (s : State) (n : Byte) :
    otpBits s.devAddrByte &&& ~~~otpBits n ≠ 0 ↔
      ∃ b, 1 ≤ b ∧ b ≤ 4 ∧ s.devAddr.getLsbD b = true ∧ n.getLsbD b = false := by
  simp only [otpBits_cleared_iff, getLsbD_devAddrByte]

section
variable {s : State} {n : Byte} {conf : Bool}

theorem burnError_eq_notIncreasing (h : n.toNat ≤ s.devAddr.toNat) :
    burnError s.devAddrByte n conf = some .notIncreasing := by
  rw [burnError, toNat_devAddrByte, if_pos h]

theorem burnError_eq_outOfRange (hlt : s.devAddr.toNat < n.toNat) (h : 0x7F < n.toNat) :
    burnError s.devAddrByte n conf = some .outOfRange := by
  rw [burnError, toNat_devAddrByte, if_neg (Nat.not_le.2 hlt), if_pos h]

theorem burnError_eq_bitCannotBeCleared (hlt : s.devAddr.toNat < n.toNat) (hle : n.toNat ≤ 0x7F)
    (h : ∃ b, 1 ≤ b ∧ b ≤ 4 ∧ s.devAddr.getLsbD b = true ∧ n.getLsbD b = false) :
    burnError s.devAddrByte n conf = some .bitCannotBeCleared := by
  rw [burnError, toNat_devAddrByte, if_neg (Nat.not_le.2 hlt), if_neg (Nat.not_lt.2 hle),
    if_pos ((otpBits_devAddrByte_cleared_iff s n).2 h)]

theorem burnError_eq_notConfirmed (hlt : s.devAddr.toNat < n.toNat) (hle : n.toNat ≤ 0x7F)
    (hbits : ∀ b, 1 ≤ b → b ≤ 4 → s.devAddr.getLsbD b = true → n.getLsbD b = true) :
    burnError s.devAddrByte n false = some .notConfirmed := by
  have hkept : ¬ otpBits s.devAddrByte &&& ~~~otpBits n ≠ 0 := by
    rw [otpBits_devAddrByte_cleared_iff]
    rintro ⟨b, h1, h4, hcur, hnew⟩
    exact Bool.false_ne_true (hnew.symm.trans (hbits b h1 h4 hcur))
  rw [burnError, toNat_devAddrByte, if_neg (Nat.not_le.2 hlt), if_neg (Nat.not_lt.2 hle), if_neg hkept, if_pos rfl]

/-! ## What the accept does -/

theorem burnNewAddress_completes {e : Status} {t : State} (ht : exec (.burnNewAddress n conf) s = .next t)
    (he : burnError s.devAddrByte n conf = some e) : Completed [] ⟨e, 0, false⟩ s t := by
  simp only [exec, execBurnNewAddress, he, raise_eq, errorResponse_eq] at ht
  cases ht
  exact completed_complete _ s

/-- An address that passes is sent in its own frame, which the decrement of an odd address leaves as it is (R120). -/
theorem burnNewAddress_sends {t : State} (ht : exec (.burnNewAddress n conf) s = .next t)
    (he : burnError s.devAddrByte n conf = none) : SendIssued [] 0 (encodeBurnAddress n) s t := by
  simp only [exec, execBurnNewAddress, he, encodeBurnAddress_dropJumper] at ht
  cases ht
  exact sendIssued_issue 0 _ s (Nat.le_add_left 5 3)

end

/-- Format HB: the address is the word's low byte, CONF its bit 8 (30_encoding.md R60). -/
theorem decodeWord_burnNewAddress {w : HostWord} (hw : w.extractLsb' 32 8 = 0x12) :
    decodeWord w = some (.burnNewAddress (w.extractLsb' 0 8) (w.getLsbD 8)) := by
  have hfields : decodeWord w = some (.burnNewAddress _ _) := decodeWord_of_op hw
  have hconf : (w.extractLsb' 0 32).getLsbD 8 = w.getLsbD 8 := by
    rw [BitVec.getLsbD_extractLsb', decide_eq_true (by decide), Bool.true_and]
  rw [hfields, fieldByte0, extract_operand w (by decide), fieldConf, hconf]

/-- Settles O31: each clause's premises fix what the checks answer, and that fixes the next state. -/
theorem burnChecksInOrderThenSends : Obligations.BurnChecksInOrderThenSends := by
  unfold Obligations.BurnChecksInOrderThenSends
  refine ⟨fun _ => decodeWord_burnNewAddress, fun n conf s => ?_,
    fun _ _ => oneStepCompletes_of_resume fun _ _ => rfl⟩
  obtain ⟨t, ht⟩ : ∃ t, exec (.burnNewAddress n conf) s = .next t := ⟨_, rfl⟩
  refine ⟨t, ht,
    fun h => burnNewAddress_completes ht (burnError_eq_notIncreasing h),
    fun hlt h => burnNewAddress_completes ht (burnError_eq_outOfRange hlt h),
    fun hlt hle h => burnNewAddress_completes ht (burnError_eq_bitCannotBeCleared hlt hle h),
    fun hlt hle hbits => ⟨fun hconf => ?_, fun hconf => ⟨joinNibbles 0 (otpBits n), ?_, ?_⟩⟩⟩
  · subst hconf
    exact burnNewAddress_completes ht (burnError_eq_notConfirmed hlt hle hbits)
  · rw [toNat_joinNibbles_zero, toNat_otpBits]
  · rw [← encodeBurnAddress_eq]
    exact burnNewAddress_sends ht ((burnError_eq_none_iff s n conf).2 ⟨hlt, hle, hbits, hconf⟩)

/-! ## Addresses with DEV_ADDR's bits 4..1 -/

/-- Two bytes with the same OTP bits agree on bits 4..1 (40_codec.md R84). -/
theorem getLsbD_eq_of_otpBits_eq {a c : Byte} (h : otpBits a = otpBits c) {b : Nat} (h1 : 1 ≤ b) (h4 : b ≤ 4) :
    a.getLsbD b = c.getLsbD b := by
  obtain ⟨i, rfl⟩ := Nat.exists_eq_add_of_le' h1
  have hi : i < 4 := h4
  rw [← getLsbD_otpBits a hi, ← getLsbD_otpBits c hi, h]

/-- An increase that leaves bits 4..1 as they are clears none of them, so it is sent, with the old bits. -/
theorem burnNewAddress_sends_old_bits {n : Byte} {s : State} (hlt : s.devAddr.toNat < n.toNat) (hle : n.toNat ≤ 0x7F)
    (hbits : n.toNat / 2 % 16 = s.devAddr.toNat / 2 % 16) :
    ∃ t, exec (.burnNewAddress n true) s = .next t ∧
      SendIssued [] 0 (encodeBurnAddress (s.devAddr.setWidth 8)) s t := by
  have hotp : otpBits n = otpBits s.devAddrByte := BitVec.eq_of_toNat_eq <| by
    rw [toNat_otpBits, toNat_otpBits, toNat_devAddrByte, hbits]
  have hframe : encodeBurnAddress (s.devAddr.setWidth 8) = encodeBurnAddress n := by
    rw [encodeBurnAddress, encodeBurnAddress, hotp, State.devAddrByte]
  have hpassed : burnError s.devAddrByte n true = none :=
    (burnError_eq_none_iff s n true).2 ⟨hlt, hle, fun b h1 h4 hcur => by
      rw [getLsbD_eq_of_otpBits_eq hotp h1 h4, getLsbD_devAddrByte, hcur], rfl⟩
  obtain ⟨t, ht⟩ : ∃ t, exec (.burnNewAddress n true) s = .next t := ⟨_, rfl⟩
  exact ⟨t, ht, hframe ▸ burnNewAddress_sends ht hpassed⟩

/-- Settles O32: an odd address one above an even DEV_ADDR, and an address with DEV_ADDR's low five bits, both keep
bits 4..1. -/
theorem oddBurnAddressIsSentAsTheEvenOneBelow : Obligations.OddBurnAddressIsSentAsTheEvenOneBelow := by
  unfold Obligations.OddBurnAddressIsSentAsTheEvenOneBelow
  refine ⟨fun n => ⟨toNat_dropJumper n, encodeBurnAddress_dropJumper n⟩, fun n s hnext hodd hle => ⟨?_, ?_⟩,
    fun n s hlt hle hlow => burnNewAddress_sends_old_bits hlt hle (by omega)⟩
  · rw [toNat_dropJumper]
    omega
  · exact burnNewAddress_sends_old_bits (by omega) hle (by omega)

end Sys2Proof.Machine

/-! SUPPORT. Completion codes: what a failed answer, an error at the accept and an outstanding burn frame say of the
command (60_exceptions.md R122 to R136). -/

namespace Sys2Proof.Machine

/-- Settles O54: the numbers of the two tables. -/
theorem completionCodesAndPhaseNumbers : Obligations.CompletionCodesAndPhaseNumbers := by
  unfold Obligations.CompletionCodesAndPhaseNumbers
  decide

/-! ## BUS_ERROR -/

/-- Settles O36: the draw is a bad answer to the outstanding request, so E_BUSRSP records it and completes. -/
theorem busErrorEndsTheCommand : Obligations.BusErrorEndsTheCommand := by
  unfold Obligations.BusErrorEndsTheCommand
  intro s d ds hq hp hd hbad
  have hb : d.bad (s.ticked.answering ds) := hbad
  refine ⟨_, ?_, rfl, completed_complete_answered (d.answer s.reqKind) (errorResponse .busError) (s.ticked.answering ds)⟩
  rw [step_quiet hq, phaseEvent_answer (s := s.ticked) hp hd, eventBusRsp_bad hb]
  rfl

/-! ## The other errors -/

/-- A good answer that completes its command completes it with OK (41_sequencer.md R90). -/
theorem rspStatus_of_resume {i : Instr} {k : Nat} {s t : State} (h : resume i k s = .next t)
    (hp : t.phase = .done) : t.rspStatus = .ok := by
  obtain hf | ⟨q, r, hi, -⟩ | ⟨data, replug, hc⟩ := resume_outcome i k s
  · rw [hf] at h; cases h
  · rw [hi] at h; cases h; cases hp
  · rw [hc] at h; cases h; rfl

/-- Settles O37: of the steps that end in DONE only a rejected accept has such a code. -/
theorem otherErrorsArePreIo : Obligations.OtherErrorsArePreIo := by
  unfold Obligations.OtherErrorsArePreIo
  intro s t h hdone hok hbus
  cases step_cases h with
  | rejected _ hp _ _ _ _ _ _ _ ht => subst ht; exact ⟨hp, rfl, rfl, rfl, rfl, rfl, rfl⟩
  | nothing _ hp ht => subst ht; exact absurd hdone hp
  | reset _ _ ht | frame _ _ _ _ _ _ ht | started _ _ _ _ _ _ _ _ _ _ _ _ _ _ _ _ ht | took _ _ ht =>
    subst ht; cases hdone
  | finished _ _ _ _ _ _ _ _ _ _ _ ht => subst ht; exact absurd rfl hok
  | failed _ _ _ _ _ _ ht => subst ht; exact absurd rfl hbus
  | answered _ _ _ _ _ _ _ _ ht => exact absurd (rspStatus_of_resume ht hdone) hok

/-! ## The burn frame -/

/-- In WAIT the bytes of an outstanding SEND are those of the command's script step SEQ (41_sequencer.md R91). -/
theorem Inv.script_sent {s : State} (hi : Inv s) (hp : s.phase = .wait) (hk : s.reqKind = .send) :
    ∃ i, s.command = some i ∧ (script i s)[s.seq.toNat]? = some (.send s.sent) := by
  obtain ⟨i, hc, -⟩ := hi.exists_script hp
  obtain ⟨bytes, hs⟩ := hi.script_send hp hk hc
  have hreq := hi.request hp
  simp only [State.requestOk, hc, hs, Bool.and_eq_true, beq_iff_eq] at hreq
  obtain ⟨-, hsent⟩ := hreq
  exact ⟨i, hc, hsent ▸ hs⟩

/-- Of the frames in the scripts of R91 only a burn's begins with 0x90 (30_encoding.md R65). -/
theorem burnNewAddress_of_script_send {i : Instr} {s : State} {k : Nat} {bytes : List Byte}
    (h : (script i s)[k]? = some (.send bytes)) (hb : bytes.head? = some 0x90) :
    ∃ addr conf, i = .burnNewAddress addr conf := by
  have hm : Req.send bytes ∈ script i s := List.mem_of_getElem? h
  cases i with
  | burnNewAddress addr conf => exact ⟨addr, conf, rfl⟩
  | setIrun _ | setIhold _ | setVmax _ | setVmin _ | frameSetMotorParam _ _ _ _ | frameSetPosition _ | frameHardStop
  | frameSoftStop | frameResetPosition | frameRunInit | frameGetFullStatus1 | frameGetFullStatus2 | frameBurnAddress _ =>
    simp [script] at hm
  | setMotorParam | setMotorParam4 _ _ _ _ | hardStop | softStop | resetPosition | runInit | getFullStatus1
  | getFullStatus2 | setPosition _ | getMotionStatus | getSwitch | getActualPosition =>
    simp only [script, List.mem_cons, List.not_mem_nil, or_false, Req.send.injEq, reduceCtorEq] at hm
    subst hm
    cases hb
  | drive r =>
    simp only [script, List.mem_cons, List.not_mem_nil, or_false, false_or, Req.send.injEq, reduceCtorEq] at hm
    obtain rfl | rfl := hm <;> cases hb

/-- A command with OP 0x12 has its operands in CMD_ARG (R60, format HB). -/
theorem fields_of_command_burn {s : State} {addr : Byte} {conf : Bool}
    (hc : s.command = some (.burnNewAddress addr conf)) :
    s.cmdOp = 0x12 ∧ s.cmdArg.extractLsb' 0 8 = addr ∧ s.cmdArg.getLsbD 8 = conf := by
  have hop : s.cmdOp = 0x12 := cmdOp_eq_of_command hc rfl
  rw [State.command, hop] at hc
  cases hc
  exact ⟨hop, rfl, rfl⟩

/-- A burn in WAIT passed every check at its accept (45_address_burn.md R117). -/
theorem Inv.burnError_eq_none {s : State} (hi : Inv s) (hp : s.phase = .wait) {addr : Byte} {conf : Bool}
    (hc : s.command = some (.burnNewAddress addr conf)) : burnError s.devAddrByte addr conf = none := by
  have hg := hi.gated hp
  rw [State.burnGated, hc] at hg
  exact beq_iff_eq.1 hg

/-- Settles O33: the outstanding frame is a step of the command's script, so the command is a burn, and it is gated. -/
theorem noBurnFrameWithoutConfirmation : Obligations.NoBurnFrameWithoutConfirmation := by
  unfold Obligations.NoBurnFrameWithoutConfirmation
  intro s hi hp hk hsent
  obtain ⟨i, hc, hs⟩ := hi.script_sent hp hk
  obtain ⟨addr, conf, rfl⟩ := burnNewAddress_of_script_send hs hsent
  obtain ⟨hop, rfl, hconf⟩ := fields_of_command_burn hc
  obtain ⟨hlt, hle, hbits, hgiven⟩ := (burnError_eq_none_iff s _ conf).1 (hi.burnError_eq_none hp hc)
  refine ⟨hop, hconf.trans hgiven, hlt, hle, fun b h1 h4 hcur => ?_⟩
  have hnew := hbits b h1 h4 hcur
  rw [BitVec.getLsbD_extractLsb', Nat.zero_add] at hnew
  exact (Bool.and_eq_true_iff.1 hnew).2

end Sys2Proof.Machine

/-! SUPPORT. Reset and the refused second master: the state at power-on, E_RESET in any phase, and what becomes of a
request outstanding at it (70_reset_and_hazards.md R139, R141, R145). -/

namespace Sys2Proof.Machine

/-! ## E_RESET in WAIT -/

/-- The step of an E_RESET uses up its own entry of the reset line. -/
theorem resetLine_ticked_eventReset {s : State} {d : SlaveAddr} {rest : List (Option SlaveAddr)}
    (hr : s.resetLine = some d :: rest) : (s.ticked.eventReset d).resetLine = rest := by
  rw [eventReset_resetLine, ticked_resetLine, hr, List.tail_cons]

theorem answersAfterReset_of_wait {s : State} (hp : s.phase = .wait) : s.answersAfterReset = s.busAnswers.tail := by
  rw [State.answersAfterReset, hp]

/-- A state in IDLE to which nothing comes, neither a reset nor a frame nor a word, is every later state of its run. -/
theorem run_of_idle_of_no_word {s : State} (ho : s.otherMaster = false) (hr : s.resetLine = []) (hp : s.phase = .idle)
    (hs : s.frameSlot = none) (hw : s.hostWords = []) (n : Nat) : core.run n s = .next s := by
  have hstep : step s = .next s := by
    rw [step_quiet (quiet_of_no_reset ho hr), ticked_of_no_reset hr, phaseEvent_noWord hp hs hw]
  exact run_of_step_eq_self hstep n

/-- An accept takes exactly the offered word, whatever it decodes to, and none of the bus agent's answers. -/
theorem eventAccept_takes (w : HostWord) (s : State) :
    ∃ u, eventAccept w s = .next u ∧ u.accepted = s.accepted ++ [w] ∧ u.hostWords = s.hostWords ∧
      u.busAnswers = s.busAnswers := by
  obtain ⟨c, ⟨e, hx⟩ | ⟨i, bytes, -, -, hx⟩⟩ := eventAccept_outcome w s
  · exact ⟨_, hx, rfl, rfl, rfl⟩
  · exact ⟨_, hx, rfl, rfl, rfl⟩

/-- Settles O3: the reset drops the abandoned request's answer and leads to IDLE, where only a word is awaited. -/
theorem resetAbandonsTheOutstandingRequest : Obligations.ResetAbandonsTheOutstandingRequest := by
  unfold Obligations.ResetAbandonsTheOutstandingRequest
  intro s d a rest ho hr hp hd
  have hline : (s.ticked.eventReset d).resetLine = [] := resetLine_ticked_eventReset hr
  have hanswers : (s.ticked.eventReset d).busAnswers = rest := by
    rw [eventReset_busAnswers, answersAfterReset_of_wait (s := s.ticked) hp, ticked_busAnswers, hd, List.tail_cons]
  refine ⟨s.ticked.eventReset d, step_reset ho (by rw [hr]; rfl), rfl, rfl, hanswers, ?_, fun w ws hs hw => ?_⟩
  · exact fun hs hw => run_of_idle_of_no_word ho hline rfl hs hw
  · obtain ⟨u, hu, hacc, hwords, hbus⟩ := eventAccept_takes w ((s.ticked.eventReset d).ticked.offering ws)
    have haccept := step_accept (s := s.ticked.eventReset d) (quiet_of_no_reset ho hline) rfl hs hw
    exact ⟨u, haccept.trans hu, hacc, hwords, hbus.trans hanswers⟩

/-! ## The state at power-on and after E_RESET -/

/-- Settles O1: the values are those `State.reset` writes; DEV_ADDR is the parameter itself, whatever it is. -/
theorem powerOnStateHoldsTheResetValues : Obligations.PowerOnStateHoldsTheResetValues := by
  unfold Obligations.PowerOnStateHoldsTheResetValues
  exact ⟨rfl, rfl, rfl, rfl, rfl, rfl⟩

/-- Settles O2: `State.eventReset` names everything E_RESET keeps. -/
theorem resetEventFromAnyState : Obligations.ResetEventFromAnyState := by
  unfold Obligations.ResetEventFromAnyState
  intro s d rest ho hr
  exact ⟨s.ticked.eventReset d, step_reset ho (by rw [hr]; rfl), rfl, rfl, rfl, rfl, rfl, rfl, rfl, rfl, rfl, rfl,
    resetLine_ticked_eventReset hr⟩

/-- In IDLE, with no frame placed, nothing recorded and nothing handed out, there is no request, no response and no
history to hold the invariant to. -/
theorem Inv.of_idle_of_no_history {s : State} (hs : s.frameSlot = none) (hp : s.phase = .idle) (hh : s.history = [])
    (hout : s.hostOut = []) : Inv s where
  noSlot := hs
  request := by simp [hp]
  gated := by simp [hp]
  lastIssue := by simp [hp]
  response := by simp [hp]
  lastComplete := by simp [hp]
  lastIdle := by simp [hh]
  legal := by simp [hh]
  opened := by simp [hh]
  serial := by simp [hh]
  taken := by simp [hh, hout]
  taken_le := by simp [hh, State.inDone, hp]
  completed_le := by simp [hh, State.inWait, hp]

/-- Settles O42: at reset MSTEP is in IDLE and has recorded nothing. -/
theorem invariantHoldsAtReset : Obligations.InvariantHoldsAtReset := by
  unfold Obligations.InvariantHoldsAtReset
  exact Inv.of_idle_of_no_history rfl rfl rfl rfl

/-! ## Another master -/

/-- Settles O10: the check for another master comes before the reset line and before the phase. -/
theorem sharedBusHandleIsRefused : Obligations.SharedBusHandleIsRefused := by
  unfold Obligations.SharedBusHandleIsRefused
  intro s ho
  rw [step, ho]
  rfl

end Sys2Proof.Machine

/-! SUPPORT. The sample words and frames (95_test_vectors.md 2.1 to 2.5). -/

namespace Sys2Proof

/-- Settles O53: the words by their OP and OPERAND, ignored bits set or not; 0x13 is no legal OP; each frame is its
instruction's own. -/
theorem sampleWordsDecode : Obligations.SampleWordsDecode := by
  unfold Obligations.SampleWordsDecode
  have illegal : decodeWord 0x1300000000 = none := (decodeWord_eq_none_iff _).2 (by decide)
  exact ⟨rfl, rfl, rfl, rfl, rfl, rfl, rfl, illegal, decodeFrame_of_encodeFrame rfl, decodeFrame_of_encodeFrame rfl,
    decodeFrame_of_encodeFrame rfl, decodeFrame_of_encodeFrame rfl⟩

end Sys2Proof
